-- ==== Sys2Proof/Word.lean ====
section
/-!
DEFINITION. The widths the spec fixes (00_scope.md R6) and the small records its port groups carry.
Every value is an unsigned integer of a stated width (R8, R100), so each width is a bit vector.
-/
namespace Sys2Proof

/-- `CHAN_W = OPCODE_W = 8`: a channel, an opcode or a byte on the wire (R6). -/
abbrev Byte := BitVec 8
/-- `NIB_W = 4`: one quantised channel (R6). -/
abbrev Nibble := BitVec 4
/-- `COORD_W = 10`: regionX, regionY, locationX or locationY; payload, never an address (R6, R25). -/
abbrev Coord := BitVec 10
/-- `COLOR_W = 16`: the packed colour, format COLOR16 (R64). -/
abbrev Color16 := BitVec 16
/-- `FRAME_BITS = 64`: the frame word, format FRAME64 (R60). -/
abbrev Frame64 := BitVec 64

/-- Four 8-bit channels: the `qi_*` inputs and the `up_*` outputs (R29, R31, R65). -/
structure Channels where
  r8 : Byte
  g8 : Byte
  b8 : Byte
  a8 : Byte
  deriving DecidableEq, Repr

/-- Four 4-bit levels: the `qo_*` outputs and the `pk_*` inputs (R29, R30). -/
structure Nibbles where
  r4 : Nibble
  g4 : Nibble
  b4 : Nibble
  a4 : Nibble
  deriving DecidableEq, Repr

/-- The six-field record a frame carries (R13, R61): the `en_*` inputs (R32). -/
structure PixelUpdate where
  opcode : Byte
  regionX : Coord
  regionY : Coord
  locationX : Coord
  locationY : Coord
  color : Color16
  deriving DecidableEq, Repr

/-- The ten-component Update of a successful DECODE: the PixelUpdate and its unpacked colour (R125). -/
structure Update where
  pixel : PixelUpdate
  rgba : Channels
  deriving DecidableEq, Repr

/-- Which way a frame message passes the CORE: sent through ENCODE or received through DECODE (R138, R139). -/
inductive Direction where
  | send
  | receive
  deriving DecidableEq, Repr

/-- The port groups of 10_state.md R29 to R34; the receive port's byte pins (`rx_valid`, `rx_byte`) and its
end pin (`rx_end`) are listed apart because one step may carry one event on each (R33, R127). -/
inductive PortGroup where
  | quant
  | pack
  | unpack
  | encode
  | decode
  | rxByte
  | rxEnd
  deriving DecidableEq, Repr

end Sys2Proof
end

