-- ==== Sys2Proof/Config.lean ====
section
/-!
DEFINITION. The parameters the spec fixes (00_scope.md R6, R7) and the one free value it leaves open
(93_implementation_defined.md U4).
-/
namespace Sys2Proof

/-- `SCALE = 17` (R6): `channel8 = channel4 * 17`. -/
def Config.scale : Nat := 17

/-- `FRAME_BYTES = 8` (R6, R42); also the size of `rx_buf` (R24). -/
def Config.frameBytes : Nat := 8

/-- `OPC_SET_PIXEL = 1` (R6, R71). -/
def Config.opcSetPixel : Byte := 1

/-- `RX_CNT_SAT = 9` (R7, R27): "more than 8 bytes seen". -/
def Config.rxCntSat : Fin 10 := 9

/-- What the 96 bits of `upd_*` data show in a step without `upd_valid = 1`: a draw under no law (U4; R33, R130,
R190). It has no body, so nothing can be proved of any value of it. Argument: `State.draws`. Log entry 4. -/
opaque Config.freeUpdData : Nat → BitVec 96

end Sys2Proof
end

