-- ==== Sys2Proof/Syntax.lean ====
section
/-!
DEFINITION. The operations of the CORE, one constructor per row of spec/opcode_table.json.
-/
namespace Sys2Proof

/-- The operation set (R2) with the frame message kinds (R71, R74) and the pseudo-operations (R80). Operand order
is the document's (R73, R78). -/
inductive Instr where
  /-- SET_PIXEL (R71): the frame message of opcode 1, sent or received. -/
  | setPixel (dir : Direction) (regionX regionY locationX locationY : Coord) (color : Color16)
  /-- MSG_UNDEFINED (R74): the frame message of any other opcode, sent or received. -/
  | msgUndefined (dir : Direction) (opcode : Byte) (regionX regionY locationX locationY : Coord) (color : Color16)
  /-- QUANT (R90). -/
  | quant (r8 g8 b8 a8 : Byte)
  /-- PACK (R94). -/
  | pack (r4 g4 b4 a4 : Nibble)
  /-- UNPACK (R96). -/
  | unpack (c16 : Color16)
  /-- ENCODE (R120). -/
  | encode (opcode : Byte) (regionX regionY locationX locationY : Coord) (color : Color16)
  /-- DECODE (R124) of a byte sequence of any length. -/
  | decode (bs : List Byte)
  /-- RX_BYTE (R128). -/
  | rxByte (b : Byte)
  /-- RX_END (R130). -/
  | rxEnd
  /-- PACK8 (R80): `pack(quant(r8, g8, b8, a8))`. -/
  | pack8 (r8 g8 b8 a8 : Byte)
  /-- SET_PIXEL8 (R80): `encode(1, regionX, regionY, locationX, locationY, pack8(r8, g8, b8, a8))`. -/
  | setPixel8 (regionX regionY locationX locationY : Coord) (r8 g8 b8 a8 : Byte)
  deriving DecidableEq, Repr

end Sys2Proof
end

