-- ==== Sys2Proof/WellFormed.lean ====
section
/-!
DEFINITION. The one check the operand types leave: a frame message is called undefined only when its opcode is not 1.
-/
namespace Sys2Proof

/-- Widths are met by the operand types (R30, R32); what is left is R74: MSG_UNDEFINED is "tested after SET_PIXEL",
so its opcode is not 1. -/
def Instr.wellFormed : Instr → Bool
  | .setPixel _ _ _ _ _ _ => true
  | .msgUndefined _ opcode _ _ _ _ _ => opcode != Config.opcSetPixel
  | .quant _ _ _ _ => true
  | .pack _ _ _ _ => true
  | .unpack _ => true
  | .encode _ _ _ _ _ _ => true
  | .decode _ => true
  | .rxByte _ => true
  | .rxEnd => true
  | .pack8 _ _ _ _ => true
  | .setPixel8 _ _ _ _ _ _ _ _ => true

end Sys2Proof
end

