-- ==== Sys2Proof/Decode.lean ====
section
/-!
DEFINITION. The two bit formats (30_encoding.md R60 to R64), the operand words of R73, the decoder from what is
presented on a port group to an operation, and the encoder back.

An operation has no opcode bits: "each is selected by which port group is driven, not by a code" (R73). What the
decoder reads is therefore a `Drive`: a selector, which is a name, and the operand word as bytes, most significant
byte first (R40), or a call in the document's function form with unbounded operands (R70, R78).
-/
namespace Sys2Proof

/-! ## Bytes and words (R40) -/

/-- The bytes of a sequence concatenated big-endian, the first most significant (R10, R40). -/
def beConcat : List Byte → Nat
  | [] => 0
  | b :: bs => b.toNat * 256 ^ bs.length + beConcat bs

/-- The low `n` bytes of a value, most significant first (R40). -/
def beBytes : Nat → Nat → List Byte
  | 0, _ => []
  | n + 1, v => BitVec.ofNat 8 (v / 256 ^ n) :: beBytes n v

/-! ## FRAME64 (R60 to R63) -/

/-- `F = opcode ++ regionX ++ regionY ++ locationX ++ locationY ++ color` (R60). -/
def frameOf (p : PixelUpdate) : Frame64 :=
  p.opcode ++ p.regionX ++ p.regionY ++ p.locationX ++ p.locationY ++ p.color

/-- The six fields of a frame at the bit positions of R60. -/
def fieldsOf (f : Frame64) : PixelUpdate where
  opcode := f.extractLsb' 56 8
  regionX := f.extractLsb' 46 10
  regionY := f.extractLsb' 36 10
  locationX := f.extractLsb' 26 10
  locationY := f.extractLsb' 16 10
  color := f.extractLsb' 0 16

/-- `Bk = F[63-8k : 56-8k]` (R40); `en_byte[k]` (R32). -/
def laneOf (f : Frame64) (k : Nat) : Byte := f.extractLsb' (56 - 8 * k) 8

/-- The eight bytes of a frame in wire order (R40). -/
def frameBytes (f : Frame64) : List Byte :=
  [laneOf f 0, laneOf f 1, laneOf f 2, laneOf f 3, laneOf f 4, laneOf f 5, laneOf f 6, laneOf f 7]

/-- `F = bs[0] ++ ... ++ bs[7]` (R40, R124); meant for eight bytes. -/
def frameOfBytes (bs : List Byte) : Frame64 := BitVec.ofNat 64 (beConcat bs)

/-! ## COLOR16 (R64) -/

/-- `c16 = r4 ++ g4 ++ b4 ++ a4` (R64). -/
def color16Of (n : Nibbles) : Color16 := n.r4 ++ n.g4 ++ n.b4 ++ n.a4

/-- The four nibbles of a packed colour (R64, R95). -/
def nibblesOf (c : Color16) : Nibbles where
  r4 := c.extractLsb' 12 4
  g4 := c.extractLsb' 8 4
  b4 := c.extractLsb' 4 4
  a4 := c.extractLsb' 0 4

/-! ## What is presented on the ports -/

/-- Which row of the operation set is selected: by driving its port group (R73), by wiring groups together (R138), or
by handing a whole frame to one of the two paths. -/
inductive Selector where
  | frame (dir : Direction)
  | quant
  | pack
  | unpack
  | encode
  | decode
  | rxByte
  | rxEnd
  | pack8
  | setPixel8
  deriving DecidableEq, Repr

/-- A transaction-level call in the notation of R78 and R80, its operands unbounded non-negative integers (R70). -/
inductive Call where
  | quant (r8 g8 b8 a8 : Nat)
  | pack (r4 g4 b4 a4 : Nat)
  | unpack (c16 : Nat)
  | encode (opcode regionX regionY locationX locationY color : Nat)
  | decode (bs : List Byte)
  | pack8 (r8 g8 b8 a8 : Nat)
  | setPixel (regionX regionY locationX locationY c16 : Nat)
  | setPixel8 (regionX regionY locationX locationY r8 g8 b8 a8 : Nat)
  deriving DecidableEq, Repr

/-- One operation as presented in a step. -/
inductive Drive where
  | word (sel : Selector) (bytes : List Byte)
  | call (c : Call)
  deriving DecidableEq, Repr

/-- Why nothing can be decoded: the operand word is not as long as the port group is wide (R73). DECODE alone takes
every length (R34). -/
inductive DecodeError where
  | wrongLength (sel : Selector) (got : Nat)
  deriving DecidableEq, Repr

/-! ## The decoder -/

/-- The frame message a frame word is: SET_PIXEL is tested first, every other opcode is MSG_UNDEFINED (R71, R74). -/
def messageOf (dir : Direction) (f : Frame64) : Instr :=
  let p := fieldsOf f
  if p.opcode = Config.opcSetPixel then
    .setPixel dir p.regionX p.regionY p.locationX p.locationY p.color
  else
    .msgUndefined dir p.opcode p.regionX p.regionY p.locationX p.locationY p.color

/-- The operation an operand word stands for, under each selector (R73 and the table's field positions). -/
def decodeWord (sel : Selector) (bytes : List Byte) : Except DecodeError Instr :=
  match sel with
  | .frame dir =>
    if bytes.length = Config.frameBytes then .ok (messageOf dir (frameOfBytes bytes))
    else .error (.wrongLength sel bytes.length)
  | .encode =>
    if bytes.length = Config.frameBytes then
      let p := fieldsOf (frameOfBytes bytes)
      .ok (.encode p.opcode p.regionX p.regionY p.locationX p.locationY p.color)
    else .error (.wrongLength sel bytes.length)
  | .quant =>
    match bytes with
    | [r8, g8, b8, a8] => .ok (.quant r8 g8 b8 a8)
    | _ => .error (.wrongLength sel bytes.length)
  | .pack =>
    match bytes with
    | [b0, b1] =>
      let n := nibblesOf (b0 ++ b1)
      .ok (.pack n.r4 n.g4 n.b4 n.a4)
    | _ => .error (.wrongLength sel bytes.length)
  | .unpack =>
    match bytes with
    | [b0, b1] => .ok (.unpack (b0 ++ b1))
    | _ => .error (.wrongLength sel bytes.length)
  | .decode => .ok (.decode bytes)
  | .rxByte =>
    match bytes with
    | [b] => .ok (.rxByte b)
    | _ => .error (.wrongLength sel bytes.length)
  | .rxEnd =>
    match bytes with
    | [] => .ok .rxEnd
    | _ => .error (.wrongLength sel bytes.length)
  | .pack8 =>
    match bytes with
    | [r8, g8, b8, a8] => .ok (.pack8 r8 g8 b8 a8)
    | _ => .error (.wrongLength sel bytes.length)
  | .setPixel8 =>
    match bytes with
    | [b0, b1, b2, b3, b4, r8, g8, b8, a8] =>
      let coords : BitVec 40 := b0 ++ b1 ++ b2 ++ b3 ++ b4
      .ok (.setPixel8 (coords.extractLsb' 30 10) (coords.extractLsb' 20 10) (coords.extractLsb' 10 10)
        (coords.extractLsb' 0 10) r8 g8 b8 a8)
    | _ => .error (.wrongLength sel bytes.length)

/-- A call's operands are each reduced to their field: `trunc_8`, `trunc_10`, `trunc_16`, `trunc_4` (R70). The excess
high bits are dropped and never reach a neighbour. -/
def decodeCall : Call → Instr
  | .quant r g b a => .quant (BitVec.ofNat 8 r) (BitVec.ofNat 8 g) (BitVec.ofNat 8 b) (BitVec.ofNat 8 a)
  | .pack r g b a => .pack (BitVec.ofNat 4 r) (BitVec.ofNat 4 g) (BitVec.ofNat 4 b) (BitVec.ofNat 4 a)
  | .unpack c => .unpack (BitVec.ofNat 16 c)
  | .encode o x y u v c =>
    .encode (BitVec.ofNat 8 o) (BitVec.ofNat 10 x) (BitVec.ofNat 10 y) (BitVec.ofNat 10 u) (BitVec.ofNat 10 v)
      (BitVec.ofNat 16 c)
  | .decode bs => .decode bs
  | .pack8 r g b a => .pack8 (BitVec.ofNat 8 r) (BitVec.ofNat 8 g) (BitVec.ofNat 8 b) (BitVec.ofNat 8 a)
  | .setPixel x y u v c =>
    .setPixel .send (BitVec.ofNat 10 x) (BitVec.ofNat 10 y) (BitVec.ofNat 10 u) (BitVec.ofNat 10 v) (BitVec.ofNat 16 c)
  | .setPixel8 x y u v r g b a =>
    .setPixel8 (BitVec.ofNat 10 x) (BitVec.ofNat 10 y) (BitVec.ofNat 10 u) (BitVec.ofNat 10 v)
      (BitVec.ofNat 8 r) (BitVec.ofNat 8 g) (BitVec.ofNat 8 b) (BitVec.ofNat 8 a)

/-- The decoder, total on everything that can be presented. -/
def decode : Drive → Except DecodeError Instr
  | .word sel bytes => decodeWord sel bytes
  | .call c => .ok (decodeCall c)

/-! ## The encoder (R60, R64, R73) -/

/-- The operand word of R73, as bytes. -/
def encodeBytes : Instr → List Byte
  | .setPixel _ x y u v c => frameBytes (frameOf ⟨Config.opcSetPixel, x, y, u, v, c⟩)
  | .msgUndefined _ o x y u v c => frameBytes (frameOf ⟨o, x, y, u, v, c⟩)
  | .quant r g b a => [r, g, b, a]
  | .pack r g b a => beBytes 2 (color16Of ⟨r, g, b, a⟩).toNat
  | .unpack c => beBytes 2 c.toNat
  | .encode o x y u v c => frameBytes (frameOf ⟨o, x, y, u, v, c⟩)
  | .decode bs => bs
  | .rxByte b => [b]
  | .rxEnd => []
  | .pack8 r g b a => [r, g, b, a]
  | .setPixel8 x y u v r g b a => beBytes 5 (x ++ y ++ u ++ v : BitVec 40).toNat ++ [r, g, b, a]

/-- The selector of an operation (R73). -/
def selectorOf : Instr → Selector
  | .setPixel dir _ _ _ _ _ => .frame dir
  | .msgUndefined dir _ _ _ _ _ _ => .frame dir
  | .quant _ _ _ _ => .quant
  | .pack _ _ _ _ => .pack
  | .unpack _ => .unpack
  | .encode _ _ _ _ _ _ => .encode
  | .decode _ => .decode
  | .rxByte _ => .rxByte
  | .rxEnd => .rxEnd
  | .pack8 _ _ _ _ => .pack8
  | .setPixel8 _ _ _ _ _ _ _ _ => .setPixel8

/-- What a caller presents for an operation. -/
def encode (i : Instr) : Drive := .word (selectorOf i) (encodeBytes i)

/-! ## Bare table words -/

/-- The selector of the first row of spec/opcode_table.json of a given width. A bare word names no port group, so rows
of one width cannot be told apart (R73); log entry 2. -/
def tableSelector (nbits : Nat) : Selector :=
  if nbits = 0 then .rxEnd
  else if nbits = 8 then .rxByte
  else if nbits = 16 then .pack
  else if nbits = 32 then .quant
  else if nbits = 64 then .frame .receive
  else .setPixel8

/-- A table word laid out as its bytes, most significant first. -/
def tableDrive (nbits w : Nat) : Drive := .word (tableSelector nbits) (beBytes (nbits / 8) w)

/-- What the decoder reads from a bare table word. -/
def decodeTableWord (nbits w : Nat) : Option Instr := (decode (tableDrive nbits w)).toOption

end Sys2Proof
end

