-- ==== Sys2Proof/Machine/State.lean ====
section
/-!
DEFINITION. The state of the CORE (10_state.md R35), the outputs the latest step left on its ports (R29 to R34), what
the environment will present (R12, R16), and the reasons a step can stop.
-/
namespace Sys2Proof.Machine

/-- The receive frame buffer `rx_buf` (R24) as its written bytes: addresses strictly rising, an unlisted address
holding no value (R26, U5). -/
abbrev Memory := List Host.Cell

/-- The response of a DECODE (R34, R79): none in this step, `Update(...)`, or `FormatError`. -/
inductive Response where
  | noResponse
  | update (u : Update)
  | formatError
  deriving DecidableEq, Repr

/-- What is presented in one step (R12, R33, R79): the reset pin and the operations whose port groups are driven. -/
structure StepInput where
  rst : Bool
  drives : List Drive
  deriving DecidableEq, Repr

/-- Why the machine stops with a fault. Both are the model's (U5, R10); neither is reached from reset. -/
inductive Fault where
  /-- Raised by a read of `rx_buf[k]` when no byte has been written there in the current frame (U5: "reading it would be
  a fault of the model, and no rule reads it"). Safe. -/
  | unwrittenByte (k : Nat)
  /-- Raised by a read or write of the frame buffer at an index above 7 (R10, R24). Safe. -/
  | outOfRange (k : Nat)
  deriving DecidableEq, Repr

/-- Why a step has no meaning. -/
inductive Refusal where
  /-- Raised by an arm of `exec` whose operation has no meaning yet. Safe. No arm raises it. -/
  | notModelled (mnemonic : String)
  /-- Raised by a step whose input holds an operand word that its ports cannot carry (R29 to R33, R73). Safe. -/
  | undecodable (e : DecodeError)
  /-- Raised by a step whose input drives one port group twice, which wires cannot do (R29 to R33). Safe. -/
  | portConflict
  deriving DecidableEq, Repr

/-- The state. `rxCnt` and `mem` are what the CORE holds from one step to the next (R35); the `…Out` fields are the
outputs of the latest step; `stimulus` and `draws` are the model's own. -/
structure State where
  /-- `rx_cnt`, legal values 0 to 9 (R27, U6). -/
  rxCnt : Fin 10
  /-- `rx_buf` (R24). -/
  mem : Memory
  /-- `qo_*` (R29); `none` where QUANT is not driven. -/
  quantOut : Option Nibbles
  /-- `pk_c16` (R30); `none` where PACK is not driven. -/
  packOut : Option Color16
  /-- `up_*` (R31); `none` where UNPACK is not driven. -/
  unpackOut : Option Channels
  /-- `en_frame` (R32); `none` where ENCODE is not driven. -/
  encodeOut : Option Frame64
  /-- The transaction-level DECODE response (R34). -/
  decodeOut : Response
  /-- The receive port's response: `upd_valid`, `upd_err` and the `upd_*` data (R33). -/
  rxOut : Response
  /-- What the environment presents in the coming steps, the next first; the empty list is idle for ever (R16, R132). -/
  stimulus : List StepInput
  /-- How many draws of the free value have been taken (U4). -/
  draws : Nat
  deriving DecidableEq, Repr

/-- The state after a reset step (R35, R190): `rx_cnt = 0`, no byte of `rx_buf` holding a value (R26), both strobes 0.
Nothing is driven and nothing is presented (log entries 1, 3, 4). -/
def State.reset : State where
  rxCnt := 0
  mem := []
  quantOut := none
  packOut := none
  unpackOut := none
  encodeOut := none
  decodeOut := .noResponse
  rxOut := .noResponse
  stimulus := []
  draws := 0

end Sys2Proof.Machine
end

