-- ==== Sys2Proof/Machine/Operands.lean ====
section
/-!
DEFINITION. The datapaths of the two units as functions of their operands: color_quantizer (40_color_quantizer.md) and
pixel_update_framer (41_pixel_update_framer.md).
-/
namespace Sys2Proof.Machine

/-- `quant1(c) = (c + 8) div 17` (R91). -/
def quant1 (c : Byte) : Nibble := BitVec.ofNat 4 ((c.toNat + 8) / Config.scale)

/-- `expand1(k) = k * 17` (R97). -/
def expand1 (k : Nibble) : Byte := BitVec.ofNat 8 (k.toNat * Config.scale)

/-- QUANT on four channels, each alone (R90, R104). -/
def quantColor (c : Channels) : Nibbles := ⟨quant1 c.r8, quant1 c.g8, quant1 c.b8, quant1 c.a8⟩

/-- PACK: `r4 ++ g4 ++ b4 ++ a4` (R94). -/
def packColor (n : Nibbles) : Color16 := color16Of n

/-- UNPACK: each nibble expanded (R96). -/
def unpackColor (c : Color16) : Channels :=
  let n := nibblesOf c
  ⟨expand1 n.r4, expand1 n.g4, expand1 n.b4, expand1 n.a4⟩

/-- ENCODE: the fields concatenated; the opcode is not checked (R120, R72). -/
def encodeFrame (p : PixelUpdate) : Frame64 := frameOf p

/-- `dec_fields(F)`: the six fields and the unpacked colour (R125). -/
def decFields (f : Frame64) : Update := ⟨fieldsOf f, unpackColor (fieldsOf f).color⟩

/-- DECODE (R124): the length is checked before any byte is looked at. -/
def decodeFrame (bs : List Byte) : Response :=
  if bs.length ≠ Config.frameBytes then .formatError else .update (decFields (frameOfBytes bs))

end Sys2Proof.Machine
end

