-- ==== Sys2Proof/Machine/Flags.lean ====
section
/-!
DEFINITION. The response strobes and the data pins of the receive port (10_state.md R22, R33), read from the response
of the latest step. There are no stored flags (R22).
-/
namespace Sys2Proof.Machine

/-- `upd_valid` (R22, R33). -/
def State.updValid (s : State) : Bool :=
  match s.rxOut with
  | .update _ => true
  | .noResponse => false
  | .formatError => false

/-- `upd_err` (R22, R33, R160). -/
def State.updErr (s : State) : Bool :=
  match s.rxOut with
  | .formatError => true
  | .noResponse => false
  | .update _ => false

/-- The 96 data bits as the ten `upd_*` ports of R33, in that rule's order. -/
def updateOfBits (v : BitVec 96) : Update where
  pixel := {
    opcode := v.extractLsb' 88 8
    regionX := v.extractLsb' 78 10
    regionY := v.extractLsb' 68 10
    locationX := v.extractLsb' 58 10
    locationY := v.extractLsb' 48 10
    color := v.extractLsb' 32 16 }
  rgba := ⟨v.extractLsb' 24 8, v.extractLsb' 16 8, v.extractLsb' 8 8, v.extractLsb' 0 8⟩

/-- What the `upd_*` data ports show: the Update where `upd_valid` is 1, a free value otherwise (R33, U4). -/
def State.updPorts (s : State) : Update :=
  match s.rxOut with
  | .update u => u
  | .noResponse => updateOfBits (Config.freeUpdData s.draws)
  | .formatError => updateOfBits (Config.freeUpdData s.draws)

/-- `en_byte[k]` (R32, R40), where ENCODE is driven. -/
def State.enByte (s : State) (k : Nat) : Option Byte := s.encodeOut.map (laneOf · k)

end Sys2Proof.Machine
end

