-- ==== Sys2Proof/Machine/Ops.lean ====
section
/-!
DEFINITION. The named operations over the frame buffer, the counter and the output ports; taking the one exception,
FormatError; reset; and the start of a step.
-/
namespace Sys2Proof.Machine

/-! ## The frame buffer (R10, R24, R26) -/

/-- The byte at an address; an unlisted address holds no value (R26). -/
def Memory.read : Memory → Nat → Option Byte
  | [], _ => none
  | (x, v) :: m, a => if x = a then some v else Memory.read m a

/-- Writes one byte and keeps the addresses rising. -/
def Memory.write : Memory → Nat → Byte → Memory
  | [], a, b => [(a, b)]
  | (x, v) :: m, a, b =>
    if a < x then (a, b) :: (x, v) :: m
    else if a = x then (a, b) :: m
    else (x, v) :: Memory.write m a b

/-- Writes bytes at rising addresses, the first at `a` (R10, R40). -/
def Memory.writeBytes (m : Memory) (a : Nat) : List Byte → Memory
  | [] => m
  | b :: bs => Memory.writeBytes (Memory.write m a b) (a + 1) bs

/-- Every listed address is above `a`, and the addresses rise. -/
def Memory.wfAbove (a : Nat) : Memory → Bool
  | [] => true
  | (x, _) :: m => decide (a < x) && Memory.wfAbove x m

/-- The canonical form: addresses strictly rising. An unlisted address holds no value, so no entry can equal it. -/
def Memory.wf : Memory → Bool
  | [] => true
  | (x, _) :: m => Memory.wfAbove x m

/-- Every listed address is one of `rx_buf[0..7]` (R24). -/
def Memory.inBuffer (m : Memory) : Bool := m.all fun c => decide (c.1 < Config.frameBytes)

/-- One byte of the frame being received. A byte not written in the current frame holds no value (R26, U5), so reading
it faults; so does an index above 7 (R10). -/
def State.readByte (s : State) (k : Nat) : Except Fault Byte :=
  if Config.frameBytes ≤ k then .error (.outOfRange k)
  else if s.rxCnt.val ≤ k then .error (.unwrittenByte k)
  else
    match Memory.read s.mem k with
    | some b => .ok b
    | none => .error (.unwrittenByte k)

/-- The bytes `MemRead(k, n)` concatenates, in order (R10). -/
def State.memReadBytes (s : State) (k : Nat) : Nat → Except Fault (List Byte)
  | 0 => .ok []
  | n + 1 =>
    match s.readByte k with
    | .error f => .error f
    | .ok b =>
      match s.memReadBytes (k + 1) n with
      | .error f => .error f
      | .ok bs => .ok (b :: bs)

/-- `F = MemRead(0, 8)` (R130). -/
def State.memReadFrame (s : State) : Except Fault Frame64 :=
  match s.memReadBytes 0 Config.frameBytes with
  | .error f => .error f
  | .ok bs => .ok (frameOfBytes bs)

/-- `MemWrite(k, n, v)` with the `n` bytes of `v` given in order (R10). -/
def State.memWrite (s : State) (k : Nat) (bs : List Byte) : Except Fault State :=
  if k + bs.length ≤ Config.frameBytes then .ok { s with mem := Memory.writeBytes s.mem k bs }
  else .error (.outOfRange (k + bs.length - 1))

/-! ## The counter (R27, R136) -/

/-- Where RX_BYTE stores its byte: index `rx_cnt` while that is below 8, nowhere after (R128). -/
def State.rxStoreIndex (s : State) : Option Nat :=
  if s.rxCnt.val < Config.frameBytes then some s.rxCnt.val else none

/-- `Byte` moves `n` to `n + 1` for `n < 9` and 9 to 9 (R136). -/
def rxCntNext (n : Fin 10) : Fin 10 := if n < Config.rxCntSat then n + 1 else Config.rxCntSat

/-! ## The output ports (R29 to R34) -/

/-- Drives `qo_*` (R29). -/
def State.setQuantOut (s : State) (n : Nibbles) : State := { s with quantOut := some n }

/-- Drives `pk_c16` (R30). -/
def State.setPackOut (s : State) (c : Color16) : State := { s with packOut := some c }

/-- Drives `up_*` (R31). -/
def State.setUnpackOut (s : State) (c : Channels) : State := { s with unpackOut := some c }

/-- Drives `en_frame` and with it `en_byte[0..7]` (R32). -/
def State.setEncodeOut (s : State) (f : Frame64) : State := { s with encodeOut := some f }

/-- Where a DECODE answers: at the transaction level (R34) or on the receive port (R33). -/
inductive DecodePort where
  | transaction
  | receive
  deriving DecidableEq, Repr

/-- `emit Update(...)` (R10, R124, R130). On the receive port the frame is over, so `rx_cnt <- 0`. -/
def State.emitUpdate (s : State) (p : DecodePort) (u : Update) : State :=
  match p with
  | .transaction => { s with decodeOut := .update u }
  | .receive => { s with rxOut := .update u, rxCnt := 0 }

/-- Taking the exception: `raise FormatError()` (R160, R166). Nothing is saved and nothing is switched; the complete
effect is the response, and on the receive port `rx_cnt <- 0`. There is no return, because there was no entry
(R168). -/
def State.raiseFormatError (s : State) (p : DecodePort) : State :=
  match p with
  | .transaction => { s with decodeOut := .formatError }
  | .receive => { s with rxOut := .formatError, rxCnt := 0 }

/-- Answers at the transaction level as `decode` does (R124). -/
def State.answerDecode (s : State) (bs : List Byte) : State :=
  match decodeFrame bs with
  | .update u => s.emitUpdate .transaction u
  | .formatError => s.raiseFormatError .transaction
  | .noResponse => s

/-! ## Frame messages (R71, R74) -/

/-- A frame message passes the CORE: sent, ENCODE puts it on `en_frame`; received, DECODE answers its eight bytes. The
opcode is not looked at (R72). -/
def State.passMessage (s : State) (dir : Direction) (p : PixelUpdate) : State :=
  match dir with
  | .send => s.setEncodeOut (encodeFrame p)
  | .receive => s.answerDecode (frameBytes (frameOf p))

/-! ## Steps and reset -/

/-- A step begins: no output of an earlier step is held (R12, R22, R133), a new draw of the free value is taken, and
the rest of the stimulus remains. -/
def State.beginStep (s : State) (rest : List StepInput) : State :=
  { s with
    quantOut := none
    packOut := none
    unpackOut := none
    encodeOut := none
    decodeOut := .noResponse
    rxOut := .noResponse
    stimulus := rest
    draws := s.draws + 1 }

/-- The reset event on the deserialiser (R190): `rx_cnt <- 0`, `rx_buf` holds no value (R26), both strobes 0. -/
def State.resetDeserialiser (s : State) : State := { s with rxCnt := 0, mem := [], rxOut := .noResponse }

end Sys2Proof.Machine
end

