-- ==== Sys2Proof/Machine/ColorQuantizer.lean ====
section
/-!
DEFINITION. Family CQ, color_quantizer: QUANT, PACK, UNPACK (40_color_quantizer.md) and the pseudo-operation PACK8.
-/
namespace Sys2Proof.Machine

/-- QUANT (R90). -/
def execQuant (r8 g8 b8 a8 : Byte) (s : State) : Host.Outcome State Fault Refusal :=
  .next (s.setQuantOut (quantColor ⟨r8, g8, b8, a8⟩))

/-- PACK (R94). -/
def execPack (r4 g4 b4 a4 : Nibble) (s : State) : Host.Outcome State Fault Refusal :=
  .next (s.setPackOut (packColor ⟨r4, g4, b4, a4⟩))

/-- UNPACK (R96). -/
def execUnpack (c16 : Color16) (s : State) : Host.Outcome State Fault Refusal :=
  .next (s.setUnpackOut (unpackColor c16))

/-- PACK8 (R80): `qo_*` is wired to `pk_*` (R138), so both groups show their results. -/
def execPack8 (r8 g8 b8 a8 : Byte) (s : State) : Host.Outcome State Fault Refusal :=
  let n := quantColor ⟨r8, g8, b8, a8⟩
  .next ((s.setQuantOut n).setPackOut (packColor n))

end Sys2Proof.Machine
end

