-- ==== Sys2Proof/Machine/PixelUpdateFramer.lean ====
section
/-!
DEFINITION. Family PUF, pixel_update_framer: ENCODE, DECODE, RX_BYTE, RX_END (41_pixel_update_framer.md), the frame
messages SET_PIXEL and MSG_UNDEFINED (30_encoding.md R71, R74) and the pseudo-operation SET_PIXEL8 (R80).
-/
namespace Sys2Proof.Machine

/-- SET_PIXEL (R71): the frame message of opcode 1. -/
def execSetPixel (dir : Direction) (regionX regionY locationX locationY : Coord) (color : Color16) (s : State) :
    Host.Outcome State Fault Refusal :=
  .next (s.passMessage dir ⟨Config.opcSetPixel, regionX, regionY, locationX, locationY, color⟩)

/-- MSG_UNDEFINED (R74): passed "exactly like opcode 1". -/
def execMsgUndefined (dir : Direction) (opcode : Byte) (regionX regionY locationX locationY : Coord) (color : Color16)
    (s : State) : Host.Outcome State Fault Refusal :=
  .next (s.passMessage dir ⟨opcode, regionX, regionY, locationX, locationY, color⟩)

/-- ENCODE (R120). -/
def execEncode (opcode : Byte) (regionX regionY locationX locationY : Coord) (color : Color16) (s : State) :
    Host.Outcome State Fault Refusal :=
  .next (s.setEncodeOut (encodeFrame ⟨opcode, regionX, regionY, locationX, locationY, color⟩))

/-- DECODE at the transaction level (R124, R34). -/
def execDecode (bs : List Byte) (s : State) : Host.Outcome State Fault Refusal := .next (s.answerDecode bs)

/-- RX_BYTE (R128). In a step whose event is a byte both strobes are 0. -/
def execRxByte (b : Byte) (s : State) : Host.Outcome State Fault Refusal :=
  match s.rxStoreIndex with
  | some k =>
    match s.memWrite k [b] with
    | .ok t => .next { t with rxCnt := rxCntNext s.rxCnt, rxOut := .noResponse }
    | .error f => .fault f
  | none => .next { s with rxCnt := rxCntNext s.rxCnt, rxOut := .noResponse }

/-- RX_END (R130). `rx_buf` is read only when `rx_cnt = 8` and is never cleared. -/
def execRxEnd (s : State) : Host.Outcome State Fault Refusal :=
  if s.rxCnt.val = Config.frameBytes then
    match s.memReadFrame with
    | .ok f => .next (s.emitUpdate .receive (decFields f))
    | .error e => .fault e
  else .next (s.raiseFormatError .receive)

/-- SET_PIXEL8 (R80): the three stages of the send path in one step (R138). -/
def execSetPixel8 (regionX regionY locationX locationY : Coord) (r8 g8 b8 a8 : Byte) (s : State) :
    Host.Outcome State Fault Refusal :=
  let n := quantColor ⟨r8, g8, b8, a8⟩
  let c := packColor n
  .next (((s.setQuantOut n).setPackOut c).setEncodeOut
    (encodeFrame ⟨Config.opcSetPixel, regionX, regionY, locationX, locationY, c⟩))

end Sys2Proof.Machine
end

