-- ==== Sys2Proof/Machine/Dispatch.lean ====
section
/-!
DEFINITION. One arm per operation.
-/
namespace Sys2Proof.Machine

def exec (i : Instr) (s : State) : Host.Outcome State Fault Refusal :=
  match i with
  | .setPixel dir x y u v c => Sys2Proof.Machine.execSetPixel dir x y u v c s
  | .msgUndefined dir o x y u v c => Sys2Proof.Machine.execMsgUndefined dir o x y u v c s
  | .quant r8 g8 b8 a8 => Sys2Proof.Machine.execQuant r8 g8 b8 a8 s
  | .pack r4 g4 b4 a4 => Sys2Proof.Machine.execPack r4 g4 b4 a4 s
  | .unpack c16 => Sys2Proof.Machine.execUnpack c16 s
  | .encode o x y u v c => Sys2Proof.Machine.execEncode o x y u v c s
  | .decode bs => Sys2Proof.Machine.execDecode bs s
  | .rxByte b => Sys2Proof.Machine.execRxByte b s
  | .rxEnd => Sys2Proof.Machine.execRxEnd s
  | .pack8 r8 g8 b8 a8 => Sys2Proof.Machine.execPack8 r8 g8 b8 a8 s
  | .setPixel8 x y u v r8 g8 b8 a8 => Sys2Proof.Machine.execSetPixel8 x y u v r8 g8 b8 a8 s

end Sys2Proof.Machine
end

