-- ==== Sys2Proof/Machine/Input.lean ====
section
/-!
DEFINITION. A step's input: which operations it presents, whether its ports can carry them together, the order in which
they are evaluated (60_exceptions.md R164), and the port-level script of 30_encoding.md R79, R80.
-/
namespace Sys2Proof.Machine

/-- The operations of a step's drives, or the first reason one cannot be decoded. -/
def decodeAll : List Drive → Except DecodeError (List Instr)
  | [] => .ok []
  | d :: ds =>
    match decode d with
    | .error e => .error e
    | .ok i =>
      match decodeAll ds with
      | .error e => .error e
      | .ok is => .ok (i :: is)

/-- The port groups an operation drives (R29 to R34, R138). -/
def portGroups : Instr → List PortGroup
  | .setPixel .send _ _ _ _ _ => [.encode]
  | .setPixel .receive _ _ _ _ _ => [.decode]
  | .msgUndefined .send _ _ _ _ _ _ => [.encode]
  | .msgUndefined .receive _ _ _ _ _ _ => [.decode]
  | .quant _ _ _ _ => [.quant]
  | .pack _ _ _ _ => [.pack]
  | .unpack _ => [.unpack]
  | .encode _ _ _ _ _ _ => [.encode]
  | .decode _ => [.decode]
  | .rxByte _ => [.rxByte]
  | .rxEnd => [.rxEnd]
  | .pack8 _ _ _ _ => [.quant, .pack]
  | .setPixel8 _ _ _ _ _ _ _ _ => [.quant, .pack, .encode]

/-- Some group stands twice in the list. -/
def hasRepeat : List PortGroup → Bool
  | [] => false
  | g :: gs => gs.contains g || hasRepeat gs

/-- Two operations of one step drive one port group, which its wires cannot do: a step holds at most one byte event and
one end event (R12) and one set of inputs per group (R29 to R34). -/
def portConflict (is : List Instr) : Bool := hasRepeat (is.flatMap portGroups)

/-- The receive events (R127). -/
def isReceiveEvent : Instr → Bool
  | .rxByte _ => true
  | .rxEnd => true
  | .setPixel _ _ _ _ _ _ => false
  | .msgUndefined _ _ _ _ _ _ _ => false
  | .quant _ _ _ _ => false
  | .pack _ _ _ _ => false
  | .unpack _ => false
  | .encode _ _ _ _ _ _ => false
  | .decode _ => false
  | .pack8 _ _ _ _ => false
  | .setPixel8 _ _ _ _ _ _ _ _ => false

/-- The order of evaluation: the end event after everything else, so after this step's byte (R131, R164). -/
def endLast (is : List Instr) : List Instr :=
  is.filter (fun i => decide (i ≠ .rxEnd)) ++ is.filter (fun i => decide (i = .rxEnd))

/-- What reset leaves of a step's operations: receive events are ignored, every other group computes (R190). -/
def underReset (is : List Instr) : List Instr := is.filter fun i => !isReceiveEvent i

/-! ## The script of R79 and R80 -/

/-- `idle` (R79, R132). -/
def idleStep : StepInput := ⟨false, []⟩

/-- `rx.byte b` (R79). -/
def byteStep (b : Byte) : StepInput := ⟨false, [encode (.rxByte b)]⟩

/-- `rx.end` (R79). -/
def endStep : StepInput := ⟨false, [encode .rxEnd]⟩

/-- `rx.byte_end b` (R79, R131). -/
def byteEndStep (b : Byte) : StepInput := ⟨false, [encode (.rxByte b), encode .rxEnd]⟩

/-- `reset` (R79, R190). -/
def resetStep : StepInput := ⟨true, []⟩

/-- `rx.frame [b0, ..., b(n-1)]` (R80). -/
def rxFrame (bs : List Byte) : List StepInput := bs.map byteStep ++ [endStep]

end Sys2Proof.Machine
end

