-- ==== Sys2Proof/Machine/Run.lean ====
section
/-!
DEFINITION. One step of the clock (00_scope.md R12): the operations presented in it, evaluated in the order of
60_exceptions.md R164.
-/
namespace Sys2Proof.Machine

/-- Goes on from a next state; a fault or a refusal ends the step. -/
def andThen (o : Host.Outcome State Fault Refusal) (f : State → Host.Outcome State Fault Refusal) :
    Host.Outcome State Fault Refusal :=
  match o with
  | .next s => f s
  | .fault e => .fault e
  | .refused e => .refused e

/-- The operations of one step, one after the other. -/
def execAll : List Instr → State → Host.Outcome State Fault Refusal
  | [], s => .next s
  | i :: is, s => andThen (exec i s) (execAll is)

/-- A step with the given input: reset first, then everything else with the end event last (R164, R190). -/
def runInput (inp : StepInput) (s : State) : Host.Outcome State Fault Refusal :=
  match decodeAll inp.drives with
  | .error e => .refused (.undecodable e)
  | .ok is =>
    if portConflict is then .refused .portConflict
    else if inp.rst then execAll (underReset is) s.resetDeserialiser
    else execAll (endLast is) s

/-- One clock step: the next input of the stimulus, or `Idle` where nothing is presented (R132). The CORE never halts
(R17). -/
def clockStep (s : State) : Host.Outcome State Fault Refusal :=
  match s.stimulus with
  | [] => .next (s.beginStep [])
  | inp :: rest => runInput inp (s.beginStep rest)

/-- Presents one input in the very next step, before whatever else is presented. -/
def State.present (s : State) (inp : StepInput) : State := { s with stimulus := inp :: s.stimulus }

end Sys2Proof.Machine
end

