-- ==== Sys2Proof/Machine/Step.lean ====
section
/-!
DEFINITION. The step, and how a bare table word is presented to it.
-/
namespace Sys2Proof.Machine

/-- One step: one rising edge of `clk` (R12). -/
def step (s : State) : Host.Outcome State Fault Refusal := clockStep s

/-- The table word presented, alone, in the very next step (log entries 1 and 2). -/
def State.withFetchWord (s : State) (nbits w : Nat) : State := s.present ⟨false, [tableDrive nbits w]⟩

end Sys2Proof.Machine
end

