-- ==== Sys2Proof/Safety.lean ====
section
/-!
DEFINITION. What the claims speak of: the invariant of the deserialiser, what two states have in common when leftover
bytes are ignored, the responses of a run, how a frame is delivered, and the laws of a quantiser.
-/
namespace Sys2Proof.Machine

/-- The invariant of R26 and R27: the buffer keeps its canonical form, holds only indices 0 to 7, and holds a value at
each of the first `rx_cnt` of them. -/
structure State.Inv (s : State) : Prop where
  wf : Memory.wf s.mem = true
  inBuffer : Memory.inBuffer s.mem = true
  written : ∀ k, k < s.rxCnt.val → k < 8 → (Memory.read s.mem k).isSome = true

/-- Two states that differ at most in bytes of the buffer not written in the current frame (R26). -/
structure State.SameButLeftover (s t : State) : Prop where
  rest : t = { s with mem := t.mem }
  current : ∀ k, k < s.rxCnt.val → k < 8 → Memory.read t.mem k = Memory.read s.mem k

/-- Two outcomes that differ at most in leftover bytes: next states related so, or the very same stop. -/
def sameOutcomeButLeftover (o p : Host.Outcome State Fault Refusal) : Prop :=
  match o, p with
  | .next s, .next t => State.SameButLeftover s t
  | .fault f, .fault g => f = g
  | .refused f, .refused g => f = g
  | _, _ => False

/-- A run of so many steps, ending at the first stop (R17). -/
def stepTimes : Nat → State → Host.Outcome State Fault Refusal
  | 0, s => .next s
  | k + 1, s => andThen (step s) (stepTimes k)

/-- The steps of a run in which the receive port answered, with the answers, in order (R50, R133). -/
def responsesOf : Nat → State → List Response
  | 0, _ => []
  | k + 1, s =>
    match step s with
    | .next t => if t.rxOut = .noResponse then responsesOf k t else t.rxOut :: responsesOf k t
    | .fault _ => []
    | .refused _ => []

/-- The step inputs that deliver a byte sequence as one frame (R127, R135): its bytes in wire order, idle steps
anywhere before the end, and one end event, alone or together with the last byte. -/
inductive Delivers : List Byte → List StepInput → Prop where
  | finish : Delivers [] [endStep]
  | finishWith (b : Byte) : Delivers [b] [byteEndStep b]
  | wait {bs : List Byte} {inps : List StepInput} : Delivers bs inps → Delivers bs (idleStep :: inps)
  | byte {bs : List Byte} {inps : List StepInput} (b : Byte) : Delivers bs inps → Delivers (b :: bs) (byteStep b :: inps)

/-- A finite run is quiescent at a frame boundary when `rx_cnt = 0` (R17). -/
def State.quiescent (s : State) : Prop := s.rxCnt = 0

/-- The laws every quantiser meets (R93 Q1 to Q3; Q1, the range, is the type `Nibble`). -/
structure QuantiserLaws (q : Byte → Nibble) : Prop where
  leftInverse : ∀ k : Nibble, q (expand1 k) = k
  monotone : ∀ c d : Byte, c ≤ d → q c ≤ q d

/-- An input that every port can carry: each drive decodes and no group is driven twice (R12, R29 to R34). -/
def StepInput.presentable (inp : StepInput) : Prop :=
  ∃ is, decodeAll inp.drives = .ok is ∧ portConflict is = false

/-- The input carries an end event that is not lost to reset (R130, R190). -/
def StepInput.endsFrame (inp : StepInput) : Prop :=
  inp.rst = false ∧ ∃ is, decodeAll inp.drives = .ok is ∧ Instr.rxEnd ∈ is

/-- The drive is not a receive event (R127). -/
def Drive.survivesReset (d : Drive) : Bool :=
  match decode d with
  | .ok i => !isReceiveEvent i
  | .error _ => true

/-- The input without `rst` and without its receive events: what the combinational groups see of it (R190). -/
def StepInput.combinational (inp : StepInput) : StepInput := ⟨false, inp.drives.filter Drive.survivesReset⟩

/-- The quantiser `c div 17`, which R93 names as not chosen. -/
def quantFloor (c : Byte) : Nibble := BitVec.ofNat 4 (c.toNat / 17)

/-- The quantiser `c >> 4`, which R93 names as not chosen. -/
def quantShift (c : Byte) : Nibble := BitVec.ofNat 4 (c.toNat >>> 4)

end Sys2Proof.Machine
end

