-- ==== Sys2Proof/Certificates/Slice0/Obligations.lean ====
section
/-!
DEFINITION. The statements for the provers. Each docstring names the rule of spec/ it formalises.
-/
open Sys2Proof Sys2Proof.Machine

/-! ## Reset, the invariant, and the step -/

/-- R35, R26: after reset `rx_cnt` is 0, both strobes are 0 and no byte of `rx_buf` holds a value. That the model writes
"unspecified" as "holding no value" is log entry 5. -/
def Obligations.ResetLeavesEmptyDeserialiser : Prop :=
  State.reset.rxCnt = 0 ∧ State.reset.updValid = false ∧ State.reset.updErr = false ∧
    (∀ k, Memory.read State.reset.mem k = none) ∧
    ∀ k, k < 8 → State.reset.readByte k = .error (.unwrittenByte k)

/-- The invariant of R26 and R27 holds after reset. -/
def Obligations.ResetSatisfiesInvariant : Prop := State.Inv State.reset

/-- A step whose input presents one operation, without `rst`, is that operation on the state the step begins with. -/
def Obligations.StepRunsDecodedOperation : Prop :=
  ∀ (s : State) (d : Drive) (i : Instr) (rest : List StepInput),
    s.stimulus = ⟨false, [d]⟩ :: rest → decode d = .ok i →
      step s = exec i (s.beginStep rest) ∧
      s.beginStep rest = { s with
        quantOut := none, packOut := none, unpackOut := none, encodeOut := none, decodeOut := .noResponse,
        rxOut := .noResponse, stimulus := rest, draws := s.draws + 1 }

/-- Operand words written out from R73, R60 and R64 decode to the operations they stand for. -/
def Obligations.SpecWordsDecodeToTheirOperations : Prop :=
  decode (.word (.frame .receive) [0x01, 0x00, 0xFF, 0xFA, 0x00, 0x4D, 0xC6, 0x3F]) =
      .ok (.setPixel .receive 3 1023 640 77 0xC63F) ∧
    decode (.word (.frame .receive) [0xDE, 0xAD, 0xBE, 0xEF, 0x01, 0x23, 0x45, 0x67]) =
      .ok (.msgUndefined .receive 222 694 1006 960 291 0x4567) ∧
    decode (.word .pack [0xC6, 0x3F]) = .ok (.pack 12 6 3 15) ∧
    decode (.word .quant [200, 100, 50, 255]) = .ok (.quant 200 100 50 255) ∧
    decode (.word .encode [0x01, 0x00, 0x00, 0x00, 0x14, 0x09, 0x00, 0x0F]) = .ok (.encode 1 0 0 5 9 0x000F)

/-- Every step keeps the invariant of R26 and R27. -/
def Obligations.StepKeepsInvariant : Prop :=
  ∀ s t : State, State.Inv s → step s = .next t → State.Inv t

/-- R162, R17 (the spec's decisions D4, D12): from a state meeting the invariant no step faults, and a step answers a next state exactly when its
input, if any, is one the ports can carry. -/
def Obligations.StepCompletesOnEveryPresentableInput : Prop :=
  ∀ s : State, State.Inv s →
    (∀ f, step s ≠ .fault f) ∧
    ((∃ t, step s = .next t) ↔ ∀ inp rest, s.stimulus = inp :: rest → inp.presentable)

/-! ## Family CQ -/

/-- R90 (the spec's decision D1): QUANT drives `qo_*` with `(c + 8) div 17` of each channel, alpha included, and does
nothing else. -/
def Obligations.QuantQuantisesEachChannel : Prop :=
  ∀ (r g b a : Byte) (s : State), ∃ n : Nibbles,
    exec (.quant r g b a) s = .next { s with quantOut := some n } ∧
    n.r4.toNat = (r.toNat + 8) / 17 ∧ n.g4.toNat = (g.toNat + 8) / 17 ∧
    n.b4.toNat = (b.toNat + 8) / 17 ∧ n.a4.toNat = (a.toNat + 8) / 17

/-- R91 (the spec's decision D1): in every lane the level QUANT answers is the unique `k` with
`17k - 8 <= c <= 17k + 8`. -/
def Obligations.QuantLevelIsTheNearestMultiple : Prop :=
  ∀ (x : Channels) (s : State), ∃ n : Nibbles,
    exec (.quant x.r8 x.g8 x.b8 x.a8) s = .next { s with quantOut := some n } ∧
    ∀ k : Nibble,
      (n.r4 = k ↔ (17 * k.toNat ≤ x.r8.toNat + 8 ∧ x.r8.toNat ≤ 17 * k.toNat + 8)) ∧
      (n.g4 = k ↔ (17 * k.toNat ≤ x.g8.toNat + 8 ∧ x.g8.toNat ≤ 17 * k.toNat + 8)) ∧
      (n.b4 = k ↔ (17 * k.toNat ≤ x.b8.toNat + 8 ∧ x.b8.toNat ≤ 17 * k.toNat + 8)) ∧
      (n.a4 = k ↔ (17 * k.toNat ≤ x.a8.toNat + 8 ∧ x.a8.toNat ≤ 17 * k.toNat + 8))

/-- R92, derived by the spec from R91 (its decision D1): the complete table of the levels as inclusive ranges; bin `k`
contains its centre `17k`. The same value on all four inputs gives the same level on all four outputs (R90). -/
def Obligations.QuantTableOfSixteenBins : Prop :=
  ∀ row ∈ ([(0, 8, 0), (9, 25, 1), (26, 42, 2), (43, 59, 3), (60, 76, 4), (77, 93, 5), (94, 110, 6), (111, 127, 7),
      (128, 144, 8), (145, 161, 9), (162, 178, 10), (179, 195, 11), (196, 212, 12), (213, 229, 13), (230, 246, 14),
      (247, 255, 15)] : List (Nat × Nat × Nat)),
    (∀ (c : Byte) (s : State), ∃ k : Nibble,
      exec (.quant c c c c) s = .next { s with quantOut := some ⟨k, k, k, k⟩ } ∧
      (k.toNat = row.2.2 ↔ (row.1 ≤ c.toNat ∧ c.toNat ≤ row.2.1))) ∧
    row.1 ≤ 17 * row.2.2 ∧ 17 * row.2.2 ≤ row.2.1

/-- R93, derived by the spec from R91 (its decision D1): laws Q1 to Q6 of `quant1`, and what the two quantisers that were not chosen meet and fail. -/
def Obligations.QuantLawsAndRejectedQuantisers : Prop :=
  QuantiserLaws quant1 ∧ QuantiserLaws quantFloor ∧ QuantiserLaws quantShift ∧
    (∀ c : Byte, (quant1 c).toNat ≤ 15 ∧ 17 * (quant1 c).toNat ≤ c.toNat + 8 ∧ c.toNat ≤ 17 * (quant1 c).toNat + 8 ∧
      quant1 (255 - c) = 15 - quant1 c ∧ quantShift (255 - c) = 15 - quantShift c ∧
      quant1 (expand1 (quant1 c)) = quant1 c ∧ quantFloor (expand1 (quantFloor c)) = quantFloor c ∧
      quantShift (expand1 (quantShift c)) = quantShift c) ∧
    quantFloor 16 = 0 ∧ quantFloor 239 = 14 ∧ quantShift 15 = 0 ∧
    (quantShift 16 = 1 ∧ quant1 16 = 1) ∧ (quantShift 26 = 1 ∧ quantFloor 26 = 1 ∧ quant1 26 = 2)

/-- R94: PACK drives `pk_c16` with `r4<<12 | g4<<8 | b4<<4 | a4` and does nothing else; called with unbounded integers
it takes the low four bits of each. -/
def Obligations.PackConcatenatesNibbles : Prop :=
  (∀ (r g b a : Nibble) (s : State), ∃ c : Color16,
    exec (.pack r g b a) s = .next { s with packOut := some c } ∧
    c = r ++ g ++ b ++ a ∧
    c.toNat = r.toNat * 2 ^ 12 + g.toNat * 2 ^ 8 + b.toNat * 2 ^ 4 + a.toNat) ∧
  (∀ (r g b a : Nat) (s : State), ∃ (i : Instr) (c : Color16),
    decode (.call (.pack r g b a)) = .ok i ∧ exec i s = .next { s with packOut := some c } ∧
    c.toNat = r % 2 ^ 4 * 2 ^ 12 + g % 2 ^ 4 * 2 ^ 8 + b % 2 ^ 4 * 2 ^ 4 + a % 2 ^ 4)

/-- R95, derived by the spec from R94: PACK is a bijection whose inverse is the nibble extraction. -/
def Obligations.PackIsABijection : Prop :=
  ∀ (c : Color16) (s : State) (n : Nibbles),
    exec (.pack n.r4 n.g4 n.b4 n.a4) s = .next { s with packOut := some c } ↔
      n = ⟨c.extractLsb' 12 4, c.extractLsb' 8 4, c.extractLsb' 4 4, c.extractLsb' 0 4⟩

/-- R96: UNPACK drives `up_*` with each nibble times 17 and does nothing else. -/
def Obligations.UnpackExpandsEachNibble : Prop :=
  ∀ (c : Color16) (s : State), ∃ u : Channels,
    exec (.unpack c) s = .next { s with unpackOut := some u } ∧
    u.r8.toNat = (c.extractLsb' 12 4).toNat * 17 ∧ u.g8.toNat = (c.extractLsb' 8 4).toNat * 17 ∧
    u.b8.toNat = (c.extractLsb' 4 4).toNat * 17 ∧ u.a8.toNat = (c.extractLsb' 0 4).toNat * 17

/-- R97: a level `k` is expanded to `k * 17`, which fits a byte and is the nibble written twice. -/
def Obligations.ExpandWritesTheNibbleTwice : Prop :=
  ∀ (k : Nibble) (s : State), ∃ e : Byte,
    exec (.unpack (k ++ k ++ k ++ k)) s = .next { s with unpackOut := some ⟨e, e, e, e⟩ } ∧
    e.toNat = k.toNat * 17 ∧ k.toNat * 17 ≤ 255 ∧ e = k ++ k ∧ e = (k.setWidth 8 <<< 4) ||| k.setWidth 8

/-- R98: unpacking what PACK answers gives every level times 17. -/
def Obligations.UnpackAfterPackScalesEachLevel : Prop :=
  ∀ (r g b a : Nibble) (s : State), ∃ (c : Color16) (u : Channels) (t : State),
    exec (.pack r g b a) s = .next t ∧ t.packOut = some c ∧
    exec (.unpack c) t = .next { t with unpackOut := some u } ∧
    u.r8.toNat = r.toNat * 17 ∧ u.g8.toNat = g.toNat * 17 ∧ u.b8.toNat = b.toNat * 17 ∧ u.a8.toNat = a.toNat * 17

/-- R99, derived by the spec (its decision D1; PACK8 is its decision D10): (a) a decoded colour re-quantises to itself; (b) quantising, packing and unpacking gives `17*quant1` of each
channel, the input exactly when every channel is a multiple of 17, and within 8 of it otherwise. -/
def Obligations.QuantRoundTrips : Prop :=
  (∀ (c : Color16) (s : State), ∃ (u : Channels) (t : State),
    exec (.unpack c) s = .next { s with unpackOut := some u } ∧
    exec (.pack8 u.r8 u.g8 u.b8 u.a8) s = .next t ∧ t.packOut = some c) ∧
  (∀ (x : Channels) (s : State), ∃ (c : Color16) (u : Channels) (t : State),
    exec (.pack8 x.r8 x.g8 x.b8 x.a8) s = .next t ∧ t.packOut = some c ∧
    exec (.unpack c) t = .next { t with unpackOut := some u } ∧
    (u.r8.toNat = 17 * (quant1 x.r8).toNat ∧ u.g8.toNat = 17 * (quant1 x.g8).toNat ∧
      u.b8.toNat = 17 * (quant1 x.b8).toNat ∧ u.a8.toNat = 17 * (quant1 x.a8).toNat) ∧
    (u = x ↔ (17 ∣ x.r8.toNat ∧ 17 ∣ x.g8.toNat ∧ 17 ∣ x.b8.toNat ∧ 17 ∣ x.a8.toNat)) ∧
    (u.r8.toNat ≤ x.r8.toNat + 8 ∧ x.r8.toNat ≤ u.r8.toNat + 8) ∧
    (u.g8.toNat ≤ x.g8.toNat + 8 ∧ x.g8.toNat ≤ u.g8.toNat + 8) ∧
    (u.b8.toNat ≤ x.b8.toNat + 8 ∧ x.b8.toNat ≤ u.b8.toNat + 8) ∧
    (u.a8.toNat ≤ x.a8.toNat + 8 ∧ x.a8.toNat ≤ u.a8.toNat + 8))

/-- U1, R99 (a): whatever quantiser meets the laws of R93, quantising and packing an unpacked colour gives it back. -/
def Obligations.AnyLawfulQuantiserRecoversPackedColour : Prop :=
  ∀ q : Byte → Nibble, QuantiserLaws q → ∀ (c : Color16) (s : State), ∃ u : Channels,
    exec (.unpack c) s = .next { s with unpackOut := some u } ∧
    exec (.pack (q u.r8) (q u.g8) (q u.b8) (q u.a8)) s = .next { s with packOut := some c }

/-- R80, R138 (the spec's decision D10): PACK8 is PACK of what QUANT answers, in one step. That its levels are
`(c + 8) div 17` is the spec's decision D1 (R91; log entry 11); that `qo_*` shows them is log entry 10. -/
def Obligations.PackEightIsPackOfQuant : Prop :=
  ∀ (r g b a : Byte) (s : State), ∃ (n : Nibbles) (t : State),
    exec (.quant r g b a) s = .next t ∧ t.quantOut = some n ∧
    exec (.pack8 r g b a) s = exec (.pack n.r4 n.g4 n.b4 n.a4) t ∧
    exec (.pack8 r g b a) s = .next { s with quantOut := some n, packOut := some (n.r4 ++ n.g4 ++ n.b4 ++ n.a4) } ∧
    n.r4.toNat = (r.toNat + 8) / 17 ∧ n.g4.toNat = (g.toNat + 8) / 17 ∧
    n.b4.toNat = (b.toNat + 8) / 17 ∧ n.a4.toNat = (a.toNat + 8) / 17

/-! ## Family PUF at the transaction level -/

/-- R60, R120: ENCODE drives `en_frame`, and with it the eight lanes, with the fields concatenated, most significant
first, whatever the opcode, and does nothing else; called with unbounded integers it takes the low bits of each. -/
def Obligations.EncodeConcatenatesFields : Prop :=
  (∀ (o : Byte) (x y u v : Coord) (c : Color16) (s : State), ∃ (f : Frame64) (t : State),
    exec (.encode o x y u v c) s = .next t ∧ t = { s with encodeOut := some f } ∧
    f.toNat = o.toNat * 2 ^ 56 + x.toNat * 2 ^ 46 + y.toNat * 2 ^ 36 + u.toNat * 2 ^ 26 + v.toNat * 2 ^ 16 + c.toNat ∧
    f.extractLsb' 56 8 = o ∧ f.extractLsb' 46 10 = x ∧ f.extractLsb' 36 10 = y ∧ f.extractLsb' 26 10 = u ∧
    f.extractLsb' 16 10 = v ∧ f.extractLsb' 0 16 = c ∧
    ∀ k, k < 8 → t.enByte k = some (f.extractLsb' (56 - 8 * k) 8)) ∧
  (∀ (o x y u v c : Nat) (s : State), ∃ (i : Instr) (f : Frame64),
    decode (.call (.encode o x y u v c)) = .ok i ∧ exec i s = .next { s with encodeOut := some f } ∧
    f.toNat = o % 2 ^ 8 * 2 ^ 56 + x % 2 ^ 10 * 2 ^ 46 + y % 2 ^ 10 * 2 ^ 36 + u % 2 ^ 10 * 2 ^ 26 +
      v % 2 ^ 10 * 2 ^ 16 + c % 2 ^ 16)

/-- R62: the two 32-bit halves of an encoded frame, by the document's integer formulas and by their fields. -/
def Obligations.EncodeWordFormulas : Prop :=
  ∀ (o : Byte) (x y u v : Coord) (c : Color16) (s : State), ∃ w0 w1 : BitVec 32,
    exec (.encode o x y u v c) s = .next { s with encodeOut := some (w0 ++ w1) } ∧
    w0 = (o.setWidth 32 <<< 24) ||| (x.setWidth 32 <<< 14) ||| (y.setWidth 32 <<< 4) ||| (u.setWidth 32 >>> 6) ∧
    w1 = ((u.setWidth 32 &&& 0x3F) <<< 26) ||| (v.setWidth 32 <<< 16) ||| c.setWidth 32 ∧
    w0.extractLsb' 24 8 = o ∧ w0.extractLsb' 14 10 = x ∧ w0.extractLsb' 4 10 = y ∧
    w0.extractLsb' 0 4 = u.extractLsb' 6 4 ∧ w1.extractLsb' 26 6 = u.extractLsb' 0 6 ∧
    w1.extractLsb' 16 10 = v ∧ w1.extractLsb' 0 16 = c

/-- R121, derived by the spec from R120, R62 and R63: the byte formulas of ENCODE. -/
def Obligations.EncodeByteFormulas : Prop :=
  ∀ (o : Byte) (x y u v : Coord) (c : Color16) (s : State), ∃ (t : State) (b : Nat → Byte),
    exec (.encode o x y u v c) s = .next t ∧ (∀ k, k < 8 → t.enByte k = some (b k)) ∧
    (b 0).toNat = o.toNat ∧ (b 1).toNat = x.toNat / 4 ∧
    (b 2).toNat = x.toNat % 4 * 64 + y.toNat / 16 ∧ (b 3).toNat = y.toNat % 16 * 16 + u.toNat / 64 ∧
    (b 4).toNat = u.toNat % 64 * 4 + v.toNat / 256 ∧ (b 5).toNat = v.toNat % 256 ∧
    (b 6).toNat = c.toNat / 256 ∧ (b 7).toNat = c.toNat % 256

/-- R64: a packed colour is `r4 ++ g4 ++ b4 ++ a4`; in a frame it is `F[15:0]`, its red and green in byte 6 and its
blue and alpha in byte 7; every 16-bit word is a colour. -/
def Obligations.ColourSitsInTheLastTwoBytes : Prop :=
  (∀ (n : Nibbles) (o : Byte) (x y u v : Coord) (s : State), ∃ (c : Color16) (f : Frame64) (t : State),
    exec (.pack n.r4 n.g4 n.b4 n.a4) s = .next { s with packOut := some c } ∧
    c.extractLsb' 12 4 = n.r4 ∧ c.extractLsb' 8 4 = n.g4 ∧ c.extractLsb' 4 4 = n.b4 ∧ c.extractLsb' 0 4 = n.a4 ∧
    c.toNat = n.r4.toNat * 2 ^ 12 + n.g4.toNat * 2 ^ 8 + n.b4.toNat * 2 ^ 4 + n.a4.toNat ∧
    exec (.encode o x y u v c) s = .next t ∧ t.encodeOut = some f ∧ f.extractLsb' 0 16 = c ∧
    t.enByte 6 = some (n.r4 ++ n.g4) ∧ t.enByte 7 = some (n.b4 ++ n.a4)) ∧
  (∀ (c : Color16) (s : State), ∃ n : Nibbles,
    exec (.pack n.r4 n.g4 n.b4 n.a4) s = .next { s with packOut := some c })

/-- R122, derived by the spec from R120: every frame is the encoding of exactly one in-range tuple. -/
def Obligations.EncodeIsABijection : Prop :=
  ∀ (f : Frame64) (s : State), ∃! p : PixelUpdate,
    exec (.encode p.opcode p.regionX p.regionY p.locationX p.locationY p.color) s = .next { s with encodeOut := some f }

/-- R43: DECODE answers FormatError, and does nothing else, exactly when the length of its input is not 8; what ENCODE
produces is never malformed. -/
def Obligations.DecodeFailsExactlyOnWrongLengths : Prop :=
  (∀ (bs : List Byte) (s : State),
    exec (.decode bs) s = .next { s with decodeOut := .formatError } ↔ bs.length ≠ 8) ∧
  (∀ (o : Byte) (x y u v : Coord) (c : Color16) (s : State), ∃ (t : State) (bs : List Byte) (p : Update),
    exec (.encode o x y u v c) s = .next t ∧ bs.length = 8 ∧ (∀ k, k < 8 → t.enByte k = bs[k]?) ∧
    exec (.decode bs) s = .next { s with decodeOut := .update p })

/-- R72: the opcode is payload. ENCODE places whatever it is given in `F[63:56]`, DECODE returns whatever it finds there,
and no other part of either answer depends on it. -/
def Obligations.OpcodeIsNotInterpreted : Prop :=
  (∀ (o o' : Byte) (x y u v : Coord) (c : Color16) (s : State), ∃ f f' : Frame64,
    exec (.encode o x y u v c) s = .next { s with encodeOut := some f } ∧
    exec (.encode o' x y u v c) s = .next { s with encodeOut := some f' } ∧
    f.extractLsb' 56 8 = o ∧ f'.extractLsb' 56 8 = o' ∧ f.extractLsb' 0 56 = f'.extractLsb' 0 56) ∧
  (∀ (o o' b1 b2 b3 b4 b5 b6 b7 : Byte) (s : State), ∃ p : Update,
    exec (.decode [o, b1, b2, b3, b4, b5, b6, b7]) s = .next { s with decodeOut := .update p } ∧ p.pixel.opcode = o ∧
    exec (.decode [o', b1, b2, b3, b4, b5, b6, b7]) s =
      .next { s with decodeOut := .update { p with pixel := { p.pixel with opcode := o' } } })

/-- R124, R125 (with the spec's decision D14 for the unpacked colour): DECODE answers FormatError when the length is not 8, and otherwise the Update of
`F = bs[0] ++ ... ++ bs[7]`: the six slices and the unpacked colour. It does nothing else. -/
def Obligations.DecodeAnswersUpdateOrFormatError : Prop :=
  (∀ (bs : List Byte) (s : State), bs.length ≠ 8 →
    exec (.decode bs) s = .next { s with decodeOut := .formatError }) ∧
  (∀ (b0 b1 b2 b3 b4 b5 b6 b7 : Byte) (f : Frame64) (s : State), f = b0 ++ b1 ++ b2 ++ b3 ++ b4 ++ b5 ++ b6 ++ b7 →
    ∃ u : Update, exec (.decode [b0, b1, b2, b3, b4, b5, b6, b7]) s = .next { s with decodeOut := .update u } ∧
      u.pixel = ⟨f.extractLsb' 56 8, f.extractLsb' 46 10, f.extractLsb' 36 10, f.extractLsb' 26 10,
        f.extractLsb' 16 10, f.extractLsb' 0 16⟩ ∧
      u.rgba.r8.toNat = 17 * (f.extractLsb' 12 4).toNat ∧ u.rgba.g8.toNat = 17 * (f.extractLsb' 8 4).toNat ∧
      u.rgba.b8.toNat = 17 * (f.extractLsb' 4 4).toNat ∧ u.rgba.a8.toNat = 17 * (f.extractLsb' 0 4).toNat)

/-- R69, derived by the spec from R63: the byte formulas of the fields DECODE answers, all zero-extended. -/
def Obligations.DecodeByteFormulas : Prop :=
  ∀ (b0 b1 b2 b3 b4 b5 b6 b7 : Byte) (s : State), ∃ u : Update,
    exec (.decode [b0, b1, b2, b3, b4, b5, b6, b7]) s = .next { s with decodeOut := .update u } ∧
    u.pixel.opcode = b0 ∧
    u.pixel.regionX.toNat = b1.toNat * 4 + b2.toNat / 64 ∧
    u.pixel.regionY.toNat = b2.toNat % 64 * 16 + b3.toNat / 16 ∧
    u.pixel.locationX.toNat = b3.toNat % 16 * 64 + b4.toNat / 4 ∧
    u.pixel.locationY.toNat = b4.toNat % 4 * 256 + b5.toNat ∧
    u.pixel.color.toNat = b6.toNat * 256 + b7.toNat ∧
    u.rgba.r8.toNat = b6.toNat / 16 * 17 ∧ u.rgba.g8.toNat = b6.toNat % 16 * 17 ∧
    u.rgba.b8.toNat = b7.toNat / 16 * 17 ∧ u.rgba.a8.toNat = b7.toNat % 16 * 17

/-- R67, R68: locationX goes 4 bits high, 6 bits low across the two words and is put together again from the words and
from the bytes. -/
def Obligations.LocationXSplitsFourHighSixLow : Prop :=
  (∀ (o : Byte) (x y u v : Coord) (c : Color16) (s : State), ∃ (t : State) (w0 w1 : BitVec 32),
    exec (.encode o x y u v c) s = .next t ∧ t.encodeOut = some (w0 ++ w1) ∧
    w0.extractLsb' 0 4 = u.extractLsb' 6 4 ∧ w1.extractLsb' 26 6 = u.extractLsb' 0 6) ∧
  (∀ (w0 w1 : BitVec 32) (s : State), ∃ p : Update,
    exec (.decode (frameBytes (w0 ++ w1))) s = .next { s with decodeOut := .update p } ∧
    p.pixel.locationX = w0.extractLsb' 0 4 ++ w1.extractLsb' 26 6 ∧
    p.pixel.locationX = (w0 ++ w1).extractLsb' 26 10 ∧
    p.pixel.locationX.toNat = (w0.toNat % 256) % 16 * 64 + w1.toNat / 2 ^ 24 / 4)

/-- R40: bytes and frame words correspond big-endian: `Bk = F[63-8k : 56-8k]` and `F = B0 ++ ... ++ B7`. -/
def Obligations.FramesAreBigEndian : Prop :=
  (∀ b0 b1 b2 b3 b4 b5 b6 b7 : Byte,
    frameOfBytes [b0, b1, b2, b3, b4, b5, b6, b7] = b0 ++ b1 ++ b2 ++ b3 ++ b4 ++ b5 ++ b6 ++ b7 ∧
    frameBytes (b0 ++ b1 ++ b2 ++ b3 ++ b4 ++ b5 ++ b6 ++ b7) = [b0, b1, b2, b3, b4, b5, b6, b7]) ∧
  (∀ f : Frame64, frameOfBytes (frameBytes f) = f ∧ (frameBytes f).length = 8 ∧
    ∀ k, k < 8 → (frameBytes f)[k]? = some (f.extractLsb' (56 - 8 * k) 8))

/-- R123, its (b) and (c) derived by the spec: (a) decoding an encoded tuple gives its six fields; (b) encoding the fields of a decoded frame gives its bytes;
(c) operands out of range come back truncated to their fields (the spec's decision D11). -/
def Obligations.EncodeDecodeRoundTrips : Prop :=
  (∀ (o : Byte) (x y u v : Coord) (c : Color16) (s : State), ∃ (f : Frame64) (p : Update),
    exec (.encode o x y u v c) s = .next { s with encodeOut := some f } ∧
    exec (.decode (frameBytes f)) s = .next { s with decodeOut := .update p } ∧ p.pixel = ⟨o, x, y, u, v, c⟩) ∧
  (∀ (bs : List Byte) (s : State), bs.length = 8 → ∃ (p : Update) (f : Frame64),
    exec (.decode bs) s = .next { s with decodeOut := .update p } ∧
    exec (.encode p.pixel.opcode p.pixel.regionX p.pixel.regionY p.pixel.locationX p.pixel.locationY p.pixel.color) s =
      .next { s with encodeOut := some f } ∧ frameBytes f = bs) ∧
  (∀ (o x y u v c : Nat) (s : State), ∃ (i : Instr) (f : Frame64) (p : Update),
    decode (.call (.encode o x y u v c)) = .ok i ∧ exec i s = .next { s with encodeOut := some f } ∧
    exec (.decode (frameBytes f)) s = .next { s with decodeOut := .update p } ∧
    p.pixel.opcode.toNat = o % 2 ^ 8 ∧ p.pixel.regionX.toNat = x % 2 ^ 10 ∧ p.pixel.regionY.toNat = y % 2 ^ 10 ∧
    p.pixel.locationX.toNat = u % 2 ^ 10 ∧ p.pixel.locationY.toNat = v % 2 ^ 10 ∧ p.pixel.color.toNat = c % 2 ^ 16)

/-- R70: operands wider than their field are reduced to it before use; no bit reaches a neighbour, and nothing faults. -/
def Obligations.OverWideOperandsAreTruncated : Prop :=
  (∀ (r g b a : Nat) (s : State), ∃ (n : Nibbles) (t : State),
    decode (.call (.pack r g b a)) = .ok (.pack n.r4 n.g4 n.b4 n.a4) ∧ exec (.pack n.r4 n.g4 n.b4 n.a4) s = .next t ∧
    n.r4.toNat = r % 2 ^ 4 ∧ n.g4.toNat = g % 2 ^ 4 ∧ n.b4.toNat = b % 2 ^ 4 ∧ n.a4.toNat = a % 2 ^ 4) ∧
  (∀ (r g b a : Nat) (s : State), ∃ (x : Channels) (t : State),
    decode (.call (.quant r g b a)) = .ok (.quant x.r8 x.g8 x.b8 x.a8) ∧ exec (.quant x.r8 x.g8 x.b8 x.a8) s = .next t ∧
    x.r8.toNat = r % 2 ^ 8 ∧ x.g8.toNat = g % 2 ^ 8 ∧ x.b8.toNat = b % 2 ^ 8 ∧ x.a8.toNat = a % 2 ^ 8) ∧
  (∀ (c : Nat) (s : State), ∃ (c' : Color16) (t : State),
    decode (.call (.unpack c)) = .ok (.unpack c') ∧ exec (.unpack c') s = .next t ∧ c'.toNat = c % 2 ^ 16) ∧
  (∀ (o x y u v c : Nat) (s : State), ∃ (p : PixelUpdate) (t : State) (f : Frame64),
    decode (.call (.encode o x y u v c)) =
      .ok (.encode p.opcode p.regionX p.regionY p.locationX p.locationY p.color) ∧
    exec (.encode p.opcode p.regionX p.regionY p.locationX p.locationY p.color) s = .next t ∧ t.encodeOut = some f ∧
    p.opcode.toNat = o % 2 ^ 8 ∧ p.regionX.toNat = x % 2 ^ 10 ∧ p.regionY.toNat = y % 2 ^ 10 ∧
    p.locationX.toNat = u % 2 ^ 10 ∧ p.locationY.toNat = v % 2 ^ 10 ∧ p.color.toNat = c % 2 ^ 16 ∧
    f.toNat = o % 2 ^ 8 * 2 ^ 56 + x % 2 ^ 10 * 2 ^ 46 + y % 2 ^ 10 * 2 ^ 36 + u % 2 ^ 10 * 2 ^ 26 +
      v % 2 ^ 10 * 2 ^ 16 + c % 2 ^ 16)

/-- R71: a frame is SET_PIXEL exactly when it matches `0x0100000000000000` under `0xFF00000000000000`; every other bit
is an operand. -/
def Obligations.SetPixelMatchesItsPattern : Prop :=
  ∀ (dir : Direction) (f : Frame64) (x y u v : Coord) (c : Color16),
    decode (.word (.frame dir) (frameBytes f)) = .ok (.setPixel dir x y u v c) ↔
      (f &&& 0xFF00000000000000 = 0x0100000000000000 ∧ x = f.extractLsb' 46 10 ∧ y = f.extractLsb' 36 10 ∧
        u = f.extractLsb' 26 10 ∧ v = f.extractLsb' 16 10 ∧ c = f.extractLsb' 0 16)

/-- R71, R120, R124: SET_PIXEL sent puts its frame on `en_frame`; received, it is answered as the Update of opcode 1
with both forms of its colour. That the row is read as these two passages is log entry 7. -/
def Obligations.SetPixelPassesTheCore : Prop :=
  (∀ (x y u v : Coord) (c : Color16) (s : State), ∃ f : Frame64,
    exec (.setPixel .send x y u v c) s = .next { s with encodeOut := some f } ∧
    f.toNat = 2 ^ 56 + x.toNat * 2 ^ 46 + y.toNat * 2 ^ 36 + u.toNat * 2 ^ 26 + v.toNat * 2 ^ 16 + c.toNat) ∧
  (∀ (x y u v : Coord) (c : Color16) (s : State), ∃ k : Channels,
    exec (.setPixel .receive x y u v c) s = .next { s with decodeOut := .update ⟨⟨1, x, y, u, v, c⟩, k⟩ } ∧
    exec (.unpack c) s = .next { s with unpackOut := some k })

/-- R74 (the spec's decision D13): every frame whose opcode is not 1 is MSG_UNDEFINED, and it is encoded and decoded
exactly like opcode 1: unchanged, an Update, no error. The two directions are log entry 7. -/
def Obligations.UndefinedOpcodesPassUnchanged : Prop :=
  (∀ (dir : Direction) (f : Frame64), f.extractLsb' 56 8 ≠ 1 →
    decode (.word (.frame dir) (frameBytes f)) =
      .ok (.msgUndefined dir (f.extractLsb' 56 8) (f.extractLsb' 46 10) (f.extractLsb' 36 10) (f.extractLsb' 26 10)
        (f.extractLsb' 16 10) (f.extractLsb' 0 16))) ∧
  (∀ (o : Byte) (x y u v : Coord) (c : Color16) (s : State), ∃ f : Frame64,
    exec (.msgUndefined .send o x y u v c) s = .next { s with encodeOut := some f } ∧
    f.toNat = o.toNat * 2 ^ 56 + x.toNat * 2 ^ 46 + y.toNat * 2 ^ 36 + u.toNat * 2 ^ 26 + v.toNat * 2 ^ 16 + c.toNat) ∧
  (∀ (o : Byte) (x y u v : Coord) (c : Color16) (s : State), ∃ k : Channels,
    exec (.msgUndefined .receive o x y u v c) s = .next { s with decodeOut := .update ⟨⟨o, x, y, u, v, c⟩, k⟩ } ∧
    exec (.unpack c) s = .next { s with unpackOut := some k })

/-- R80, R138 (the spec's decision D10): SET_PIXEL8 is `encode(1, ..., pack(quant(...)))`, the three stages in one step.
That its colour holds `(c + 8) div 17` of each channel is the spec's decision D1 (R91; log entry 11); that `qo_*` and
`pk_c16` show the stages is log entry 10. -/
def Obligations.SetPixelEightChainsTheSendPath : Prop :=
  ∀ (x y u v : Coord) (r g b a : Byte) (s : State), ∃ (t : State) (c : Color16) (f : Frame64),
    exec (.pack8 r g b a) s = .next t ∧ t.packOut = some c ∧
    exec (.setPixel8 x y u v r g b a) s = exec (.encode 1 x y u v c) t ∧
    exec (.setPixel8 x y u v r g b a) s = .next { t with encodeOut := some f } ∧
    f.toNat = 2 ^ 56 + x.toNat * 2 ^ 46 + y.toNat * 2 ^ 36 + u.toNat * 2 ^ 26 + v.toNat * 2 ^ 16 +
      (r.toNat + 8) / 17 * 2 ^ 12 + (g.toNat + 8) / 17 * 2 ^ 8 + (b.toNat + 8) / 17 * 2 ^ 4 + (a.toNat + 8) / 17

/-! ## Encoding of the operations -/

/-- R73 (the spec's decision D10): decoding what the encoder writes for a well-formed operation gives it back, with every operand. -/
def Obligations.DecodeOfEncodeIsIdentity : Prop :=
  ∀ i : Instr, i.wellFormed = true → decode (encode i) = .ok i

/-- R73 (the spec's decision D10): an operand word has one meaning: what it decodes to is well-formed and is encoded as that word. -/
def Obligations.EncodeOfDecodeIsIdentity : Prop :=
  ∀ (sel : Selector) (bytes : List Byte) (i : Instr), decode (.word sel bytes) = .ok i →
    i.wellFormed = true ∧ encode i = .word sel bytes

/-! ## The receive port -/

/-- R128 (the spec's decisions D3, D16): below 8 the byte is stored at index `rx_cnt` and the counter goes up; at 8 and 9 it is discarded and the counter
is 9. The strobes are 0; every other byte of the buffer and every other field is unchanged. -/
def Obligations.RxByteStoresOrDiscards : Prop :=
  ∀ (b : Byte) (s : State),
    (s.rxCnt.val < 8 → ∃ t : State, exec (.rxByte b) s = .next t ∧
      t = { s with mem := t.mem, rxCnt := t.rxCnt, rxOut := .noResponse } ∧
      t.rxCnt.val = s.rxCnt.val + 1 ∧ Memory.read t.mem s.rxCnt.val = some b ∧
      (∀ a, a ≠ s.rxCnt.val → Memory.read t.mem a = Memory.read s.mem a) ∧
      t.updValid = false ∧ t.updErr = false) ∧
    (8 ≤ s.rxCnt.val → ∃ t : State, exec (.rxByte b) s = .next t ∧
      t = { s with rxCnt := 9, rxOut := .noResponse } ∧ t.updValid = false ∧ t.updErr = false)

/-- R130 (the spec's decisions D3, D5, D14): with `rx_cnt = 8` and the eight bytes written, the end event answers the Update of `F = MemRead(0, 8)`; with any
other count it answers FormatError. `rx_cnt` becomes 0 in both; nothing else changes, `rx_buf` included. -/
def Obligations.RxEndAnswersUpdateOrFormatError : Prop :=
  (∀ (b0 b1 b2 b3 b4 b5 b6 b7 : Byte) (f : Frame64) (s : State), s.rxCnt = 8 →
    (∀ k, k < 8 → Memory.read s.mem k = [b0, b1, b2, b3, b4, b5, b6, b7][k]?) →
    f = b0 ++ b1 ++ b2 ++ b3 ++ b4 ++ b5 ++ b6 ++ b7 →
    ∃ (u : Update) (t : State), exec .rxEnd s = .next t ∧ t = { s with rxOut := .update u, rxCnt := 0 } ∧
      t.updValid = true ∧ t.updErr = false ∧ t.updPorts = u ∧
      u.pixel = ⟨f.extractLsb' 56 8, f.extractLsb' 46 10, f.extractLsb' 36 10, f.extractLsb' 26 10,
        f.extractLsb' 16 10, f.extractLsb' 0 16⟩ ∧
      u.rgba.r8.toNat = 17 * (f.extractLsb' 12 4).toNat ∧ u.rgba.g8.toNat = 17 * (f.extractLsb' 8 4).toNat ∧
      u.rgba.b8.toNat = 17 * (f.extractLsb' 4 4).toNat ∧ u.rgba.a8.toNat = 17 * (f.extractLsb' 0 4).toNat) ∧
  (∀ s : State, s.rxCnt ≠ 8 → ∃ t : State, exec .rxEnd s = .next t ∧
    t = { s with rxOut := .formatError, rxCnt := 0 } ∧ t.updValid = false ∧ t.updErr = true)

/-- U5, R26: the end event reads a byte that was not written only in a state no run reaches, and then it faults at the
first such byte. This is the model's fault; log entry 5. -/
def Obligations.RxEndFaultsOnUnwrittenByte : Prop :=
  ∀ (s : State) (k : Nat), s.rxCnt = 8 → k < 8 → Memory.read s.mem k = none →
    (∀ j, j < k → (Memory.read s.mem j).isSome = true) → exec .rxEnd s = .fault (.unwrittenByte k)

/-- R131 (the spec's decision D4): a byte and an end in one step are the byte, then the end, whichever is listed first; afterwards `rx_cnt = 0`.
With seven bytes in the buffer the eighth takes part as `B7`; with any other count it is a FormatError. -/
def Obligations.ByteEndIsByteThenEnd : Prop :=
  (∀ (s : State) (b : Byte) (rest : List StepInput),
    (s.stimulus = byteEndStep b :: rest ∨ s.stimulus = ⟨false, [encode .rxEnd, encode (.rxByte b)]⟩ :: rest) →
    step s = andThen (exec (.rxByte b) (s.beginStep rest)) (exec .rxEnd) ∧
    (s.rxCnt.val ≠ 7 → ∃ t, step s = .next t ∧ t.rxCnt = 0 ∧ t.rxOut = .formatError)) ∧
  (∀ (s : State) (b0 b1 b2 b3 b4 b5 b6 b7 : Byte) (rest : List StepInput),
    s.stimulus = byteEndStep b7 :: rest → s.rxCnt = 7 →
    (∀ k, k < 7 → Memory.read s.mem k = [b0, b1, b2, b3, b4, b5, b6][k]?) →
    ∃ t, step s = .next t ∧ t.rxCnt = 0 ∧ t.rxOut = decodeFrame [b0, b1, b2, b3, b4, b5, b6, b7])

/-- R132 (the spec's decision D4): an idle step changes neither `rx_cnt` nor `rx_buf`, and both strobes are 0 in it; so does a step in which
nothing is presented any more. -/
def Obligations.IdleChangesNothing : Prop :=
  ∀ (s : State) (rest : List StepInput), (s.stimulus = idleStep :: rest ∨ (s.stimulus = [] ∧ rest = [])) →
    ∃ t, step s = .next t ∧ t.rxCnt = s.rxCnt ∧ t.mem = s.mem ∧ t.updValid = false ∧ t.updErr = false ∧
      t.stimulus = rest

/-- R190 (the spec's decision D8): in a step with `rst` the counter becomes 0 and both strobes are 0, a byte or an end presented with it is lost,
and QUANT, PACK, UNPACK and ENCODE answer as in the same step without `rst`. That the transaction-level DECODE does so
too is log entry 8. -/
def Obligations.ResetWinsOverReceiveEvents : Prop :=
  ∀ (s : State) (inp : StepInput) (rest : List StepInput),
    s.stimulus = inp :: rest → inp.rst = true → inp.presentable →
    ∃ t t' : State, step s = .next t ∧ step { s with stimulus := inp.combinational :: rest } = .next t' ∧
      t = { t' with rxCnt := 0, mem := t.mem, rxOut := .noResponse } ∧ t.updValid = false ∧ t.updErr = false

/-- R191 (the spec's decision D8): a reset in the middle of a frame discards its bytes without a response, and the next frame is decoded as the
first. -/
def Obligations.ResetAbandonsAPartialFrameSilently : Prop :=
  ∀ (s : State) (abandoned bs : List Byte) (inps rest : List StepInput), Delivers bs inps →
    s.stimulus = abandoned.map byteStep ++ resetStep :: (inps ++ rest) →
    responsesOf (abandoned.length + 1) s = [] ∧
    responsesOf (abandoned.length + 1 + inps.length) s = [decodeFrame bs]

/-- R22, R33, R133 (the spec's decision D5): a strobe is 1 after a step exactly when the step evaluated an end event, and never both are. -/
def Obligations.StrobesMarkExactlyTheEndEvents : Prop :=
  ∀ s t : State, step s = .next t →
    ((t.updValid = true ∨ t.updErr = true) ↔ ∃ inp rest, s.stimulus = inp :: rest ∧ inp.endsFrame) ∧
    ¬ (t.updValid = true ∧ t.updErr = true)

/-- R136 (the spec's decision D3): the transition system of `rx_cnt`. -/
def Obligations.CounterTransitions : Prop :=
  ∀ (s : State) (rest : List StepInput), State.Inv s →
    (∀ b, s.stimulus = byteStep b :: rest →
      ∃ t, step s = .next t ∧ t.rxCnt.val = if s.rxCnt.val < 9 then s.rxCnt.val + 1 else 9) ∧
    (s.stimulus = endStep :: rest → ∃ t, step s = .next t ∧ t.rxCnt = 0) ∧
    (s.stimulus = idleStep :: rest → ∃ t, step s = .next t ∧ t.rxCnt = s.rxCnt) ∧
    (s.stimulus = resetStep :: rest → ∃ t, step s = .next t ∧ t.rxCnt = 0)

/-- R135, derived by the spec: from a frame boundary, delivering any byte sequence gives, in the end step and in no step before it, the
response DECODE gives for that sequence, and ends at a frame boundary. -/
def Obligations.ReceivePortAgreesWithDecode : Prop :=
  ∀ (bs : List Byte) (inps rest : List StepInput) (s : State), Delivers bs inps → s.rxCnt = 0 →
    s.stimulus = inps ++ rest →
    ∃ t u : State, stepTimes inps.length s = .next t ∧ t.rxCnt = 0 ∧ t.stimulus = rest ∧
      exec (.decode bs) s = .next u ∧ t.rxOut = u.decodeOut ∧ t.rxOut ≠ .noResponse ∧
      responsesOf inps.length s = [t.rxOut]

/-- R50 (the spec's decision D9): frames delivered one after the other are answered in order, one response each, none dropped, duplicated or
reordered, whatever their lengths. -/
def Obligations.ResponsesComeInFrameOrder : Prop :=
  ∀ (frames : List (List Byte × List StepInput)) (s : State), (∀ p ∈ frames, Delivers p.1 p.2) → s.rxCnt = 0 →
    s.stimulus = frames.flatMap (fun p => p.2) →
    responsesOf s.stimulus.length s = frames.map (fun p => decodeFrame p.1)

/-- R160 (the spec's decision D5): a delivered frame raises FormatError exactly when its length is not 8. -/
def Obligations.FormatErrorExactlyForWrongLengths : Prop :=
  ∀ (bs : List Byte) (inps rest : List StepInput) (s : State), Delivers bs inps → s.rxCnt = 0 →
    s.stimulus = inps ++ rest →
    ∃ t : State, stepTimes inps.length s = .next t ∧
      (t.updErr = true ↔ bs.length ≠ 8) ∧ (t.updValid = true ↔ bs.length = 8)

/-- R26, R134, derived by the spec: bytes left in the buffer by an earlier frame are never observable: two states that differ only in them
step to states that differ only in them, or stop alike. -/
def Obligations.LeftoverBytesAreNeverObservable : Prop :=
  ∀ s t : State, State.SameButLeftover s t → sameOutcomeButLeftover (step s) (step t)

/-! ## Frames and independence -/

/-- Every operation but RX_BYTE and RX_END completes from every state; it leaves `rx_cnt`, every byte of memory, both
strobes and the input alone, drives only the outputs of its own port groups, and what it drives on them depends on its
operands alone. R49 says so of QUANT, PACK, UNPACK and ENCODE; the port groups of the frame messages, of the
transaction-level DECODE and of the pseudo-operations are log entries 7, 8 and 10. -/
def Obligations.CombinationalOperationsTouchOnlyTheirPorts : Prop :=
  ∀ (i : Instr) (s s' : State), isReceiveEvent i = false →
    ∃ t t' : State, exec i s = .next t ∧ exec i s' = .next t' ∧
      t.rxCnt = s.rxCnt ∧ (∀ a, Memory.read t.mem a = Memory.read s.mem a) ∧ t.rxOut = s.rxOut ∧
      t.updValid = s.updValid ∧ t.updErr = s.updErr ∧ t.stimulus = s.stimulus ∧ t.draws = s.draws ∧
      (if PortGroup.quant ∈ portGroups i then t.quantOut = t'.quantOut else t.quantOut = s.quantOut) ∧
      (if PortGroup.pack ∈ portGroups i then t.packOut = t'.packOut else t.packOut = s.packOut) ∧
      (if PortGroup.unpack ∈ portGroups i then t.unpackOut = t'.unpackOut else t.unpackOut = s.unpackOut) ∧
      (if PortGroup.encode ∈ portGroups i then t.encodeOut = t'.encodeOut else t.encodeOut = s.encodeOut) ∧
      (if PortGroup.decode ∈ portGroups i then t.decodeOut = t'.decodeOut else t.decodeOut = s.decodeOut)

/-- R128 (the spec's decision D3): RX_BYTE changes no byte of memory but the one at the index it stores to, and no output of another group. -/
def Obligations.RxByteChangesOnlyItsByte : Prop :=
  ∀ (b : Byte) (s t : State), exec (.rxByte b) s = .next t →
    (∀ a, s.rxStoreIndex ≠ some a → Memory.read t.mem a = Memory.read s.mem a) ∧
    (∀ k, s.rxStoreIndex = some k → k < 8 ∧ Memory.read t.mem k = some b) ∧
    t.quantOut = s.quantOut ∧ t.packOut = s.packOut ∧ t.unpackOut = s.unpackOut ∧ t.encodeOut = s.encodeOut ∧
    t.decodeOut = s.decodeOut ∧ t.stimulus = s.stimulus ∧ t.draws = s.draws

/-- R130 (the spec's decision D3): RX_END stores nothing and drives no output of another group. -/
def Obligations.RxEndStoresNothing : Prop :=
  ∀ s t : State, exec .rxEnd s = .next t →
    (∀ a, Memory.read t.mem a = Memory.read s.mem a) ∧ t.rxCnt = 0 ∧ t.rxOut ≠ .noResponse ∧
    t.quantOut = s.quantOut ∧ t.packOut = s.packOut ∧ t.unpackOut = s.unpackOut ∧ t.encodeOut = s.encodeOut ∧
    t.decodeOut = s.decodeOut ∧ t.stimulus = s.stimulus ∧ t.draws = s.draws

/-- R165, derived by the spec from R49: operations on different port groups do not interact: they may be evaluated in either order, with the same
outcome. (The byte and end events of one step are the one ordered pair, R131.) The port groups of the frame messages,
of the transaction-level DECODE and of the pseudo-operations are log entries 7, 8 and 10. -/
def Obligations.PortGroupsDoNotInteract : Prop :=
  ∀ (i j : Instr) (s : State), isReceiveEvent i = false → (∀ g ∈ portGroups i, g ∉ portGroups j) →
    andThen (exec i s) (exec j) = andThen (exec j s) (exec i)
end

