-- ==== Sys2Proof/Laws/State.lean ====
section
/-!
SUPPORT. One lemma per field per update of State, each true by rfl, so that no later proof unfolds a record update.
-/
namespace Sys2Proof.Machine

variable (s : State)

/-! ### `setQuantOut` -/

@[simp] theorem State.setQuantOut_rxCnt (n : Nibbles) : (s.setQuantOut n).rxCnt = s.rxCnt := rfl
@[simp] theorem State.setQuantOut_mem (n : Nibbles) : (s.setQuantOut n).mem = s.mem := rfl
@[simp] theorem State.setQuantOut_quantOut (n : Nibbles) : (s.setQuantOut n).quantOut = some n := rfl
@[simp] theorem State.setQuantOut_packOut (n : Nibbles) : (s.setQuantOut n).packOut = s.packOut := rfl
@[simp] theorem State.setQuantOut_unpackOut (n : Nibbles) : (s.setQuantOut n).unpackOut = s.unpackOut := rfl
@[simp] theorem State.setQuantOut_encodeOut (n : Nibbles) : (s.setQuantOut n).encodeOut = s.encodeOut := rfl
@[simp] theorem State.setQuantOut_decodeOut (n : Nibbles) : (s.setQuantOut n).decodeOut = s.decodeOut := rfl
@[simp] theorem State.setQuantOut_rxOut (n : Nibbles) : (s.setQuantOut n).rxOut = s.rxOut := rfl
@[simp] theorem State.setQuantOut_stimulus (n : Nibbles) : (s.setQuantOut n).stimulus = s.stimulus := rfl
@[simp] theorem State.setQuantOut_draws (n : Nibbles) : (s.setQuantOut n).draws = s.draws := rfl

/-! ### `setPackOut` -/

@[simp] theorem State.setPackOut_rxCnt (c : Color16) : (s.setPackOut c).rxCnt = s.rxCnt := rfl
@[simp] theorem State.setPackOut_mem (c : Color16) : (s.setPackOut c).mem = s.mem := rfl
@[simp] theorem State.setPackOut_quantOut (c : Color16) : (s.setPackOut c).quantOut = s.quantOut := rfl
@[simp] theorem State.setPackOut_packOut (c : Color16) : (s.setPackOut c).packOut = some c := rfl
@[simp] theorem State.setPackOut_unpackOut (c : Color16) : (s.setPackOut c).unpackOut = s.unpackOut := rfl
@[simp] theorem State.setPackOut_encodeOut (c : Color16) : (s.setPackOut c).encodeOut = s.encodeOut := rfl
@[simp] theorem State.setPackOut_decodeOut (c : Color16) : (s.setPackOut c).decodeOut = s.decodeOut := rfl
@[simp] theorem State.setPackOut_rxOut (c : Color16) : (s.setPackOut c).rxOut = s.rxOut := rfl
@[simp] theorem State.setPackOut_stimulus (c : Color16) : (s.setPackOut c).stimulus = s.stimulus := rfl
@[simp] theorem State.setPackOut_draws (c : Color16) : (s.setPackOut c).draws = s.draws := rfl

/-! ### `setUnpackOut` -/

@[simp] theorem State.setUnpackOut_rxCnt (c : Channels) : (s.setUnpackOut c).rxCnt = s.rxCnt := rfl
@[simp] theorem State.setUnpackOut_mem (c : Channels) : (s.setUnpackOut c).mem = s.mem := rfl
@[simp] theorem State.setUnpackOut_quantOut (c : Channels) : (s.setUnpackOut c).quantOut = s.quantOut := rfl
@[simp] theorem State.setUnpackOut_packOut (c : Channels) : (s.setUnpackOut c).packOut = s.packOut := rfl
@[simp] theorem State.setUnpackOut_unpackOut (c : Channels) : (s.setUnpackOut c).unpackOut = some c := rfl
@[simp] theorem State.setUnpackOut_encodeOut (c : Channels) : (s.setUnpackOut c).encodeOut = s.encodeOut := rfl
@[simp] theorem State.setUnpackOut_decodeOut (c : Channels) : (s.setUnpackOut c).decodeOut = s.decodeOut := rfl
@[simp] theorem State.setUnpackOut_rxOut (c : Channels) : (s.setUnpackOut c).rxOut = s.rxOut := rfl
@[simp] theorem State.setUnpackOut_stimulus (c : Channels) : (s.setUnpackOut c).stimulus = s.stimulus := rfl
@[simp] theorem State.setUnpackOut_draws (c : Channels) : (s.setUnpackOut c).draws = s.draws := rfl

/-! ### `setEncodeOut` -/

@[simp] theorem State.setEncodeOut_rxCnt (f : Frame64) : (s.setEncodeOut f).rxCnt = s.rxCnt := rfl
@[simp] theorem State.setEncodeOut_mem (f : Frame64) : (s.setEncodeOut f).mem = s.mem := rfl
@[simp] theorem State.setEncodeOut_quantOut (f : Frame64) : (s.setEncodeOut f).quantOut = s.quantOut := rfl
@[simp] theorem State.setEncodeOut_packOut (f : Frame64) : (s.setEncodeOut f).packOut = s.packOut := rfl
@[simp] theorem State.setEncodeOut_unpackOut (f : Frame64) : (s.setEncodeOut f).unpackOut = s.unpackOut := rfl
@[simp] theorem State.setEncodeOut_encodeOut (f : Frame64) : (s.setEncodeOut f).encodeOut = some f := rfl
@[simp] theorem State.setEncodeOut_decodeOut (f : Frame64) : (s.setEncodeOut f).decodeOut = s.decodeOut := rfl
@[simp] theorem State.setEncodeOut_rxOut (f : Frame64) : (s.setEncodeOut f).rxOut = s.rxOut := rfl
@[simp] theorem State.setEncodeOut_stimulus (f : Frame64) : (s.setEncodeOut f).stimulus = s.stimulus := rfl
@[simp] theorem State.setEncodeOut_draws (f : Frame64) : (s.setEncodeOut f).draws = s.draws := rfl

/-! ### `beginStep` -/

@[simp] theorem State.beginStep_rxCnt (rest : List StepInput) : (s.beginStep rest).rxCnt = s.rxCnt := rfl
@[simp] theorem State.beginStep_mem (rest : List StepInput) : (s.beginStep rest).mem = s.mem := rfl
@[simp] theorem State.beginStep_quantOut (rest : List StepInput) : (s.beginStep rest).quantOut = none := rfl
@[simp] theorem State.beginStep_packOut (rest : List StepInput) : (s.beginStep rest).packOut = none := rfl
@[simp] theorem State.beginStep_unpackOut (rest : List StepInput) : (s.beginStep rest).unpackOut = none := rfl
@[simp] theorem State.beginStep_encodeOut (rest : List StepInput) : (s.beginStep rest).encodeOut = none := rfl
@[simp] theorem State.beginStep_decodeOut (rest : List StepInput) : (s.beginStep rest).decodeOut = .noResponse := rfl
@[simp] theorem State.beginStep_rxOut (rest : List StepInput) : (s.beginStep rest).rxOut = .noResponse := rfl
@[simp] theorem State.beginStep_stimulus (rest : List StepInput) : (s.beginStep rest).stimulus = rest := rfl
@[simp] theorem State.beginStep_draws (rest : List StepInput) : (s.beginStep rest).draws = s.draws + 1 := rfl

/-! ### `resetDeserialiser` -/

@[simp] theorem State.resetDeserialiser_rxCnt : (s.resetDeserialiser).rxCnt = 0 := rfl
@[simp] theorem State.resetDeserialiser_mem : (s.resetDeserialiser).mem = [] := rfl
@[simp] theorem State.resetDeserialiser_quantOut : (s.resetDeserialiser).quantOut = s.quantOut := rfl
@[simp] theorem State.resetDeserialiser_packOut : (s.resetDeserialiser).packOut = s.packOut := rfl
@[simp] theorem State.resetDeserialiser_unpackOut : (s.resetDeserialiser).unpackOut = s.unpackOut := rfl
@[simp] theorem State.resetDeserialiser_encodeOut : (s.resetDeserialiser).encodeOut = s.encodeOut := rfl
@[simp] theorem State.resetDeserialiser_decodeOut : (s.resetDeserialiser).decodeOut = s.decodeOut := rfl
@[simp] theorem State.resetDeserialiser_rxOut : (s.resetDeserialiser).rxOut = .noResponse := rfl
@[simp] theorem State.resetDeserialiser_stimulus : (s.resetDeserialiser).stimulus = s.stimulus := rfl
@[simp] theorem State.resetDeserialiser_draws : (s.resetDeserialiser).draws = s.draws := rfl

/-! ### `present` -/

@[simp] theorem State.present_rxCnt (inp : StepInput) : (s.present inp).rxCnt = s.rxCnt := rfl
@[simp] theorem State.present_mem (inp : StepInput) : (s.present inp).mem = s.mem := rfl
@[simp] theorem State.present_quantOut (inp : StepInput) : (s.present inp).quantOut = s.quantOut := rfl
@[simp] theorem State.present_packOut (inp : StepInput) : (s.present inp).packOut = s.packOut := rfl
@[simp] theorem State.present_unpackOut (inp : StepInput) : (s.present inp).unpackOut = s.unpackOut := rfl
@[simp] theorem State.present_encodeOut (inp : StepInput) : (s.present inp).encodeOut = s.encodeOut := rfl
@[simp] theorem State.present_decodeOut (inp : StepInput) : (s.present inp).decodeOut = s.decodeOut := rfl
@[simp] theorem State.present_rxOut (inp : StepInput) : (s.present inp).rxOut = s.rxOut := rfl
@[simp] theorem State.present_stimulus (inp : StepInput) : (s.present inp).stimulus = inp :: s.stimulus := rfl
@[simp] theorem State.present_draws (inp : StepInput) : (s.present inp).draws = s.draws := rfl

/-! ### `emitUpdate` -/

@[simp] theorem State.emitUpdate_transaction_rxCnt (u : Update) : (s.emitUpdate .transaction u).rxCnt = s.rxCnt := rfl
@[simp] theorem State.emitUpdate_transaction_mem (u : Update) : (s.emitUpdate .transaction u).mem = s.mem := rfl
@[simp] theorem State.emitUpdate_transaction_quantOut (u : Update) : (s.emitUpdate .transaction u).quantOut = s.quantOut := rfl
@[simp] theorem State.emitUpdate_transaction_packOut (u : Update) : (s.emitUpdate .transaction u).packOut = s.packOut := rfl
@[simp] theorem State.emitUpdate_transaction_unpackOut (u : Update) : (s.emitUpdate .transaction u).unpackOut = s.unpackOut := rfl
@[simp] theorem State.emitUpdate_transaction_encodeOut (u : Update) : (s.emitUpdate .transaction u).encodeOut = s.encodeOut := rfl
@[simp] theorem State.emitUpdate_transaction_decodeOut (u : Update) : (s.emitUpdate .transaction u).decodeOut = .update u := rfl
@[simp] theorem State.emitUpdate_transaction_rxOut (u : Update) : (s.emitUpdate .transaction u).rxOut = s.rxOut := rfl
@[simp] theorem State.emitUpdate_transaction_stimulus (u : Update) : (s.emitUpdate .transaction u).stimulus = s.stimulus := rfl
@[simp] theorem State.emitUpdate_transaction_draws (u : Update) : (s.emitUpdate .transaction u).draws = s.draws := rfl
@[simp] theorem State.emitUpdate_receive_rxCnt (u : Update) : (s.emitUpdate .receive u).rxCnt = 0 := rfl
@[simp] theorem State.emitUpdate_receive_mem (u : Update) : (s.emitUpdate .receive u).mem = s.mem := rfl
@[simp] theorem State.emitUpdate_receive_quantOut (u : Update) : (s.emitUpdate .receive u).quantOut = s.quantOut := rfl
@[simp] theorem State.emitUpdate_receive_packOut (u : Update) : (s.emitUpdate .receive u).packOut = s.packOut := rfl
@[simp] theorem State.emitUpdate_receive_unpackOut (u : Update) : (s.emitUpdate .receive u).unpackOut = s.unpackOut := rfl
@[simp] theorem State.emitUpdate_receive_encodeOut (u : Update) : (s.emitUpdate .receive u).encodeOut = s.encodeOut := rfl
@[simp] theorem State.emitUpdate_receive_decodeOut (u : Update) : (s.emitUpdate .receive u).decodeOut = s.decodeOut := rfl
@[simp] theorem State.emitUpdate_receive_rxOut (u : Update) : (s.emitUpdate .receive u).rxOut = .update u := rfl
@[simp] theorem State.emitUpdate_receive_stimulus (u : Update) : (s.emitUpdate .receive u).stimulus = s.stimulus := rfl
@[simp] theorem State.emitUpdate_receive_draws (u : Update) : (s.emitUpdate .receive u).draws = s.draws := rfl

/-! ### `raiseFormatError` -/

@[simp] theorem State.raiseFormatError_transaction_rxCnt : (s.raiseFormatError .transaction).rxCnt = s.rxCnt := rfl
@[simp] theorem State.raiseFormatError_transaction_mem : (s.raiseFormatError .transaction).mem = s.mem := rfl
@[simp] theorem State.raiseFormatError_transaction_quantOut : (s.raiseFormatError .transaction).quantOut = s.quantOut := rfl
@[simp] theorem State.raiseFormatError_transaction_packOut : (s.raiseFormatError .transaction).packOut = s.packOut := rfl
@[simp] theorem State.raiseFormatError_transaction_unpackOut : (s.raiseFormatError .transaction).unpackOut = s.unpackOut := rfl
@[simp] theorem State.raiseFormatError_transaction_encodeOut : (s.raiseFormatError .transaction).encodeOut = s.encodeOut := rfl
@[simp] theorem State.raiseFormatError_transaction_decodeOut : (s.raiseFormatError .transaction).decodeOut = .formatError := rfl
@[simp] theorem State.raiseFormatError_transaction_rxOut : (s.raiseFormatError .transaction).rxOut = s.rxOut := rfl
@[simp] theorem State.raiseFormatError_transaction_stimulus : (s.raiseFormatError .transaction).stimulus = s.stimulus := rfl
@[simp] theorem State.raiseFormatError_transaction_draws : (s.raiseFormatError .transaction).draws = s.draws := rfl
@[simp] theorem State.raiseFormatError_receive_rxCnt : (s.raiseFormatError .receive).rxCnt = 0 := rfl
@[simp] theorem State.raiseFormatError_receive_mem : (s.raiseFormatError .receive).mem = s.mem := rfl
@[simp] theorem State.raiseFormatError_receive_quantOut : (s.raiseFormatError .receive).quantOut = s.quantOut := rfl
@[simp] theorem State.raiseFormatError_receive_packOut : (s.raiseFormatError .receive).packOut = s.packOut := rfl
@[simp] theorem State.raiseFormatError_receive_unpackOut : (s.raiseFormatError .receive).unpackOut = s.unpackOut := rfl
@[simp] theorem State.raiseFormatError_receive_encodeOut : (s.raiseFormatError .receive).encodeOut = s.encodeOut := rfl
@[simp] theorem State.raiseFormatError_receive_decodeOut : (s.raiseFormatError .receive).decodeOut = s.decodeOut := rfl
@[simp] theorem State.raiseFormatError_receive_rxOut : (s.raiseFormatError .receive).rxOut = .formatError := rfl
@[simp] theorem State.raiseFormatError_receive_stimulus : (s.raiseFormatError .receive).stimulus = s.stimulus := rfl
@[simp] theorem State.raiseFormatError_receive_draws : (s.raiseFormatError .receive).draws = s.draws := rfl

/-! ### The strobes of each response -/

theorem State.updValid_eq_true_iff : s.updValid = true ↔ ∃ u, s.rxOut = .update u := by
  unfold State.updValid
  cases s.rxOut <;> simp

theorem State.updErr_eq_true_iff : s.updErr = true ↔ s.rxOut = .formatError := by
  unfold State.updErr
  cases s.rxOut <;> simp

/-- R33: `upd_valid` and `upd_err` are never both 1. -/
theorem State.strobes_exclusive : ¬ (s.updValid = true ∧ s.updErr = true) := by
  rintro ⟨hv, he⟩
  obtain ⟨u, hu⟩ := s.updValid_eq_true_iff.1 hv
  rw [s.updErr_eq_true_iff, hu] at he
  cases he

/-- R22: some strobe is 1 exactly when the receive port answered. -/
theorem State.strobe_iff_response : (s.updValid = true ∨ s.updErr = true) ↔ s.rxOut ≠ .noResponse := by
  unfold State.updValid State.updErr
  cases s.rxOut <;> simp

end Sys2Proof.Machine
end

