-- ==== Sys2Proof/Laws/Memory.lean ====
section
/-!
SUPPORT. The frame buffer: a read after a write, the canonical form, and that every operation keeps it.
-/
namespace Sys2Proof.Machine

/-- A read after a write to the same index gives the byte written. -/
@[simp] theorem Memory.read_write_same (m : Memory) (a : Nat) (b : Byte) : (Memory.write m a b).read a = some b := by
  induction m with
  | nil => simp [Memory.write, Memory.read]
  | cons c m ih =>
    obtain ⟨x, v⟩ := c
    unfold Memory.write
    split
    · simp [Memory.read]
    · split
      · simp [Memory.read]
      · next h => simp [Memory.read, ih, Ne.symm h]

/-- A write leaves every other index alone. -/
theorem Memory.read_write_other (m : Memory) {a k : Nat} (b : Byte) (h : k ≠ a) :
    (Memory.write m a b).read k = m.read k := by
  induction m with
  | nil => simp [Memory.write, Memory.read, Ne.symm h]
  | cons c m ih =>
    obtain ⟨x, v⟩ := c
    unfold Memory.write
    split
    · simp [Memory.read, Ne.symm h]
    · split
      · next hx => subst hx; simp [Memory.read, Ne.symm h]
      · simp [Memory.read, ih]

theorem Memory.read_write (m : Memory) (a k : Nat) (b : Byte) :
    (Memory.write m a b).read k = if k = a then some b else m.read k := by
  split
  · next h => simp [h]
  · next h => exact Memory.read_write_other m b h

theorem Memory.wfAbove_write (m : Memory) {l a : Nat} (b : Byte) (hl : l < a) (h : Memory.wfAbove l m = true) :
    Memory.wfAbove l (Memory.write m a b) = true := by
  induction m generalizing l with
  | nil => simp [Memory.write, Memory.wfAbove, hl]
  | cons c m ih =>
    obtain ⟨x, v⟩ := c
    simp only [Memory.wfAbove, Bool.and_eq_true, decide_eq_true_eq] at h
    unfold Memory.write
    split
    · next hx => simp [Memory.wfAbove, hl, hx, h.2]
    · split
      · next _ hx => subst hx; simp [Memory.wfAbove, hl, h.2]
      · next hn hne =>
        have hx : x < a := by omega
        simp [Memory.wfAbove, h.1, ih hx h.2]

/-- A write keeps the canonical form. -/
theorem Memory.wf_write (m : Memory) (a : Nat) (b : Byte) (h : m.wf = true) : (Memory.write m a b).wf = true := by
  cases m with
  | nil => rfl
  | cons c m =>
    obtain ⟨x, v⟩ := c
    unfold Memory.write
    simp only [Memory.wf] at h
    split
    · next hx => simp [Memory.wf, Memory.wfAbove, hx, h]
    · split
      · next _ hx => subst hx; simpa [Memory.wf] using h
      · next hn hne =>
        have hx : x < a := by omega
        simpa [Memory.wf] using Memory.wfAbove_write m b hx h

theorem Memory.inBuffer_write (m : Memory) (a : Nat) (b : Byte) (ha : a < 8) (h : m.inBuffer = true) :
    (Memory.write m a b).inBuffer = true := by
  induction m with
  | nil => simp [Memory.write, Memory.inBuffer, Config.frameBytes, ha]
  | cons c m ih =>
    obtain ⟨x, v⟩ := c
    simp only [Memory.inBuffer, List.all_cons, Bool.and_eq_true, Config.frameBytes] at h
    unfold Memory.write
    split
    · simp [Memory.inBuffer, Config.frameBytes, ha, h.1]
      simpa using h.2
    · split
      · simp [Memory.inBuffer, Config.frameBytes, ha]
        simpa using h.2
      · have := ih (by simpa [Memory.inBuffer, Config.frameBytes] using h.2)
        simp only [Memory.inBuffer, List.all_cons, Bool.and_eq_true, Config.frameBytes] at this ⊢
        exact ⟨h.1, this⟩

/-- Writing bytes in a row keeps the canonical form. -/
theorem Memory.wf_writeBytes (bs : List Byte) (m : Memory) (a : Nat) (h : m.wf = true) :
    (m.writeBytes a bs).wf = true := by
  induction bs generalizing m a with
  | nil => exact h
  | cons b bs ih => exact ih _ _ (Memory.wf_write m a b h)

theorem Memory.inBuffer_writeBytes (bs : List Byte) (m : Memory) (a : Nat) (ha : a + bs.length ≤ 8)
    (h : m.inBuffer = true) : (m.writeBytes a bs).inBuffer = true := by
  induction bs generalizing m a with
  | nil => exact h
  | cons b bs ih =>
    simp only [List.length_cons] at ha
    exact ih _ _ (by omega) (Memory.inBuffer_write m a b (by omega) h)

/-- The memory after reset is in the canonical form. -/
theorem State.reset_mem_wf : State.reset.mem.wf = true := rfl

end Sys2Proof.Machine
end

