-- ==== Sys2Proof/Laws/Words.lean ====
section
/-!
SUPPORT. The two formats: integers of bytes, of frames and of colours, and that packing and extracting are inverse.
-/
namespace Sys2Proof

/-! ## Bytes (R40) -/

theorem beConcat_lt (bs : List Byte) : beConcat bs < 256 ^ bs.length := by
  induction bs with
  | nil => simp [beConcat]
  | cons b bs ih =>
    have hb : b.toNat < 256 := b.isLt
    calc beConcat (b :: bs) < b.toNat * 256 ^ bs.length + 256 ^ bs.length := by simpa [beConcat] using ih
      _ = (b.toNat + 1) * 256 ^ bs.length := by ring
      _ ≤ 256 * 256 ^ bs.length := Nat.mul_le_mul_right _ (by omega)
      _ = 256 ^ (b :: bs).length := by rw [List.length_cons, pow_succ]; ring

@[simp] theorem beBytes_length (n v : Nat) : (beBytes n v).length = n := by
  induction n with
  | zero => rfl
  | succ n ih => simp [beBytes, ih]

/-- The bytes of a value concatenate to its low bits. -/
theorem beConcat_beBytes (n v : Nat) : beConcat (beBytes n v) = v % 256 ^ n := by
  induction n with
  | zero => simp [beBytes, beConcat, Nat.mod_one]
  | succ n ih =>
    simp only [beBytes, beConcat, beBytes_length, ih, BitVec.toNat_ofNat]
    rw [show 256 ^ (n + 1) = 256 ^ n * 256 from pow_succ 256 n, Nat.mod_mul (a := 256 ^ n) (b := 256)]
    ring

theorem beBytes_mod (n v m : Nat) (h : n ≤ m) : beBytes n (v % 256 ^ m) = beBytes n v := by
  induction n with
  | zero => rfl
  | succ n ih =>
    simp only [beBytes, ih (by omega), List.cons.injEq, and_true]
    apply BitVec.eq_of_toNat_eq
    simp only [BitVec.toNat_ofNat]
    obtain ⟨k, rfl⟩ : ∃ k, m = n + (k + 1) := ⟨m - n - 1, by omega⟩
    rw [pow_add, Nat.mod_mul_right_div_self, pow_succ, Nat.mul_comm, Nat.mod_mul_right_mod]

/-- A byte sequence is the bytes of what it concatenates to. -/
theorem beBytes_beConcat (bs : List Byte) : beBytes bs.length (beConcat bs) = bs := by
  induction bs with
  | nil => rfl
  | cons b bs ih =>
    have hlt := beConcat_lt bs
    have hpos : 0 < 256 ^ bs.length := by positivity
    simp only [List.length_cons, beBytes, beConcat, List.cons.injEq]
    constructor
    · apply BitVec.eq_of_toNat_eq
      rw [BitVec.toNat_ofNat, Nat.add_comm, Nat.add_mul_div_right _ _ hpos, Nat.div_eq_of_lt hlt]
      have hb : b.toNat < 256 := b.isLt
      omega
    · have := beBytes_mod bs.length (b.toNat * 256 ^ bs.length + beConcat bs) bs.length (le_refl _)
      rw [← this, Nat.add_comm, Nat.add_mul_mod_self_right, Nat.mod_eq_of_lt hlt, ih]

/-! ## Concatenation as an integer -/

/-- The integer of a concatenation (R8). -/
theorem toNat_concat {m n : Nat} (x : BitVec m) (y : BitVec n) : (x ++ y).toNat = x.toNat * 2 ^ n + y.toNat := by
  rw [BitVec.toNat_append, ← Nat.shiftLeft_add_eq_or_of_lt y.isLt, Nat.shiftLeft_eq]

/-- The integer of a slice (R8). -/
theorem toNat_slice {n : Nat} (x : BitVec n) (lo len : Nat) : (x.extractLsb' lo len).toNat = x.toNat / 2 ^ lo % 2 ^ len := by
  rw [BitVec.extractLsb'_toNat, Nat.shiftRight_eq_div_pow]

/-! ## FRAME64 (R60) -/

theorem frameOf_toNat (p : PixelUpdate) :
    (frameOf p).toNat = p.opcode.toNat * 2 ^ 56 + p.regionX.toNat * 2 ^ 46 + p.regionY.toNat * 2 ^ 36 +
      p.locationX.toNat * 2 ^ 26 + p.locationY.toNat * 2 ^ 16 + p.color.toNat := by
  unfold frameOf
  simp only [toNat_concat]
  ring

/-- R122: extracting the fields undoes the concatenation. -/
@[simp] theorem fieldsOf_frameOf (p : PixelUpdate) : fieldsOf (frameOf p) = p := by
  obtain ⟨o, x, y, u, v, c⟩ := p
  have h := frameOf_toNat ⟨o, x, y, u, v, c⟩
  simp only at h
  have ho := o.isLt; have hx := x.isLt; have hy := y.isLt; have hu := u.isLt; have hv := v.isLt; have hc := c.isLt
  simp only [fieldsOf, PixelUpdate.mk.injEq]
  refine ⟨?_, ?_, ?_, ?_, ?_, ?_⟩ <;> apply BitVec.eq_of_toNat_eq <;> rw [toNat_slice, h] <;> omega

/-- R122: every frame is the concatenation of its fields. -/
@[simp] theorem frameOf_fieldsOf (f : Frame64) : frameOf (fieldsOf f) = f := by
  apply BitVec.eq_of_toNat_eq
  have hf := f.isLt
  rw [frameOf_toNat]
  simp only [fieldsOf, toNat_slice]
  omega

theorem frameOf_injective : Function.Injective frameOf := fun p q h => by
  rw [← fieldsOf_frameOf p, h, fieldsOf_frameOf]

/-- `F = B0 ++ ... ++ B7` (R40). -/
theorem frameOfBytes_eight (b0 b1 b2 b3 b4 b5 b6 b7 : Byte) :
    frameOfBytes [b0, b1, b2, b3, b4, b5, b6, b7] = b0 ++ b1 ++ b2 ++ b3 ++ b4 ++ b5 ++ b6 ++ b7 := by
  apply BitVec.eq_of_toNat_eq
  have h0 := b0.isLt; have h1 := b1.isLt; have h2 := b2.isLt; have h3 := b3.isLt
  have h4 := b4.isLt; have h5 := b5.isLt; have h6 := b6.isLt; have h7 := b7.isLt
  simp only [frameOfBytes, BitVec.toNat_ofNat, beConcat, List.length_cons, List.length_nil, toNat_concat]
  omega

theorem frameBytes_eq_beBytes (f : Frame64) : frameBytes f = beBytes 8 f.toNat := by
  simp only [frameBytes, beBytes, laneOf, List.cons.injEq, and_true]
  refine ⟨?_, ?_, ?_, ?_, ?_, ?_, ?_, ?_⟩ <;> apply BitVec.eq_of_toNat_eq <;>
    rw [toNat_slice, BitVec.toNat_ofNat] <;> norm_num

/-- R40: the bytes of a frame concatenate to it. -/
@[simp] theorem frameOfBytes_frameBytes (f : Frame64) : frameOfBytes (frameBytes f) = f := by
  apply BitVec.eq_of_toNat_eq
  have hf := f.isLt
  rw [frameBytes_eq_beBytes, frameOfBytes, beConcat_beBytes, BitVec.toNat_ofNat]
  omega

/-- R40: eight bytes are the bytes of the frame they concatenate to. -/
theorem frameBytes_frameOfBytes (bs : List Byte) (h : bs.length = 8) : frameBytes (frameOfBytes bs) = bs := by
  have hlt := beConcat_lt bs
  have hb := beBytes_beConcat bs
  rw [h] at hlt hb
  rw [frameBytes_eq_beBytes, frameOfBytes, BitVec.toNat_ofNat, Nat.mod_eq_of_lt (by omega), hb]

@[simp] theorem frameBytes_length (f : Frame64) : (frameBytes f).length = 8 := rfl

/-! ## COLOR16 (R64) -/

theorem color16Of_toNat (n : Nibbles) :
    (color16Of n).toNat = n.r4.toNat * 2 ^ 12 + n.g4.toNat * 2 ^ 8 + n.b4.toNat * 2 ^ 4 + n.a4.toNat := by
  unfold color16Of
  simp only [toNat_concat]
  ring

/-- R95: the nibbles of a packed colour are the ones packed. -/
@[simp] theorem nibblesOf_color16Of (n : Nibbles) : nibblesOf (color16Of n) = n := by
  obtain ⟨r, g, b, a⟩ := n
  have h := color16Of_toNat ⟨r, g, b, a⟩
  simp only at h
  have hr := r.isLt; have hg := g.isLt; have hb := b.isLt; have ha := a.isLt
  simp only [nibblesOf, Nibbles.mk.injEq]
  refine ⟨?_, ?_, ?_, ?_⟩ <;> apply BitVec.eq_of_toNat_eq <;> rw [toNat_slice, h] <;> omega

/-- R95: every colour is the packing of its nibbles. -/
@[simp] theorem color16Of_nibblesOf (c : Color16) : color16Of (nibblesOf c) = c := by
  apply BitVec.eq_of_toNat_eq
  have hc := c.isLt
  rw [color16Of_toNat]
  simp only [nibblesOf, toNat_slice]
  omega

end Sys2Proof

namespace Sys2Proof.Machine

/-! ## The scale (R91, R97) -/

/-- R91: the quotient fits a nibble. -/
theorem quant1_toNat (c : Byte) : (quant1 c).toNat = (c.toNat + 8) / 17 := by
  have hc := c.isLt
  simp only [quant1, Config.scale, BitVec.toNat_ofNat]
  omega

/-- R97: the product fits a byte. -/
theorem expand1_toNat (k : Nibble) : (expand1 k).toNat = k.toNat * 17 := by
  have hk := k.isLt
  simp only [expand1, Config.scale, BitVec.toNat_ofNat]
  omega

/-- R93 Q2. -/
@[simp] theorem quant1_expand1 (k : Nibble) : quant1 (expand1 k) = k := by
  apply BitVec.eq_of_toNat_eq
  rw [quant1_toNat, expand1_toNat]
  omega

end Sys2Proof.Machine
end

