-- ==== Sys2Proof/Laws/Ops.lean ====
section
/-!
SUPPORT. One lemma per shared operation, saying once everything it can do.
-/
namespace Sys2Proof.Machine

/-! ## Reading the frame buffer (R10, U5) -/

/-- A byte is read exactly when its index is in the buffer, below `rx_cnt`, and holds it. -/
theorem State.readByte_eq_ok_iff (s : State) (k : Nat) (b : Byte) :
    s.readByte k = .ok b ↔ k < 8 ∧ k < s.rxCnt.val ∧ s.mem.read k = some b := by
  unfold State.readByte Config.frameBytes
  by_cases h8 : k < 8
  · by_cases hc : k < s.rxCnt.val
    · rw [if_neg (by omega), if_neg (by omega)]
      cases s.mem.read k <;> simp [h8, hc]
    · rw [if_neg (by omega), if_pos (by omega)]
      simp [hc]
  · rw [if_pos (by omega)]
    simp [h8]

/-- In the buffer and below `rx_cnt`, a byte that holds no value faults by its index. -/
theorem State.readByte_unwritten (s : State) (k : Nat) (h8 : k < 8) (h : s.mem.read k = none) :
    s.readByte k = .error (.unwrittenByte k) := by
  unfold State.readByte Config.frameBytes
  rw [if_neg (by omega)]
  split
  · rfl
  · simp [h]

/-- A read of several bytes answers them when each can be read. -/
theorem State.memReadBytes_ok (s : State) (k : Nat) (bs : List Byte)
    (h : ∀ j, (hj : j < bs.length) → s.readByte (k + j) = .ok bs[j]) : s.memReadBytes k bs.length = .ok bs := by
  induction bs generalizing k with
  | nil => rfl
  | cons b bs ih =>
    have h0 : s.readByte k = .ok b := h 0 (Nat.succ_pos _)
    have hs : s.memReadBytes (k + 1) bs.length = .ok bs := by
      apply ih
      intro j hj
      have := h (j + 1) (by simpa using hj)
      simpa [Nat.add_assoc, Nat.add_comm 1 j] using this
    simp [State.memReadBytes, h0, hs]

/-- What a read of several bytes answers, it read one by one. -/
theorem State.readByte_of_memReadBytes_ok (s : State) (k n : Nat) (bs : List Byte) (h : s.memReadBytes k n = .ok bs) :
    bs.length = n ∧ ∀ j, (hj : j < bs.length) → s.readByte (k + j) = .ok bs[j] := by
  induction n generalizing k bs with
  | zero =>
    simp only [State.memReadBytes, Except.ok.injEq] at h
    subst h
    exact ⟨rfl, by intro j hj; simp at hj⟩
  | succ n ih =>
    unfold State.memReadBytes at h
    split at h
    · simp at h
    · next b hb =>
      split at h
      · simp at h
      · next bs' hbs =>
        simp only [Except.ok.injEq] at h
        subst h
        obtain ⟨hl, hr⟩ := ih (k + 1) bs' hbs
        refine ⟨by simp [hl], fun j hj => ?_⟩
        cases j with
        | zero => simpa using hb
        | succ j =>
          have := hr j (by simpa using hj)
          simpa [Nat.add_assoc, Nat.add_comm 1 j] using this

/-- A read of several bytes faults at the first byte that cannot be read. -/
theorem State.memReadBytes_error (s : State) (k n j : Nat) (f : Fault) (hj : j < n)
    (hok : ∀ l, l < j → ∃ b, s.readByte (k + l) = .ok b) (he : s.readByte (k + j) = .error f) :
    s.memReadBytes k n = .error f := by
  induction n generalizing k j with
  | zero => omega
  | succ n ih =>
    cases j with
    | zero =>
      have he' : s.readByte k = .error f := by simpa using he
      simp [State.memReadBytes, he']
    | succ j =>
      obtain ⟨b, hb⟩ := hok 0 (by omega)
      have hb' : s.readByte k = .ok b := by simpa using hb
      have hs : s.memReadBytes (k + 1) n = .error f := by
        apply ih (k + 1) j (by omega)
        · intro l hl
          have := hok (l + 1) (by omega)
          simpa [Nat.add_assoc, Nat.add_comm 1 l] using this
        · simpa [Nat.add_assoc, Nat.add_comm 1 j] using he
      simp [State.memReadBytes, hb', hs]

/-- With `rx_cnt >= 8`, eight bytes held are read as the frame they concatenate to. -/
theorem State.memReadFrame_ok (s : State) (bs : List Byte) (hl : bs.length = 8) (hc : 8 ≤ s.rxCnt.val)
    (h : ∀ k, k < 8 → s.mem.read k = bs[k]?) : s.memReadFrame = .ok (frameOfBytes bs) := by
  have hr : s.memReadBytes 0 bs.length = .ok bs := by
    apply s.memReadBytes_ok
    intro j hj
    rw [State.readByte_eq_ok_iff]
    refine ⟨by omega, by omega, ?_⟩
    rw [Nat.zero_add, h j (by omega), List.getElem?_eq_getElem hj]
  rw [hl] at hr
  simp [State.memReadFrame, Config.frameBytes, hr]

/-! ## The counter and RX_BYTE (R27, R128, R136) -/

theorem rxCntNext_val (n : Fin 10) : (rxCntNext n).val = if n.val < 9 then n.val + 1 else 9 := by
  revert n; decide

theorem State.rxStoreIndex_eq (s : State) : s.rxStoreIndex = if s.rxCnt.val < 8 then some s.rxCnt.val else none := rfl

/-- RX_BYTE completes from every state: it stores below 8 and discards from 8 on. -/
theorem execRxByte_eq (b : Byte) (s : State) :
    execRxByte b s = .next { s with
      mem := if s.rxCnt.val < 8 then Memory.write s.mem s.rxCnt.val b else s.mem
      rxCnt := rxCntNext s.rxCnt
      rxOut := .noResponse } := by
  unfold execRxByte
  rw [State.rxStoreIndex_eq]
  by_cases h : s.rxCnt.val < 8
  · simp [h, State.memWrite, Memory.writeBytes, Config.frameBytes]
  · simp [h]

/-! ## The end event (R130) -/

/-- With any count but 8 the end event is a FormatError. -/
theorem execRxEnd_of_ne (s : State) (h : s.rxCnt.val ≠ 8) :
    execRxEnd s = .next { s with rxOut := .formatError, rxCnt := 0 } := by
  simp [execRxEnd, Config.frameBytes, h, State.raiseFormatError]

/-- With count 8 and eight bytes held the end event answers their Update. -/
theorem execRxEnd_of_eq (s : State) (bs : List Byte) (hl : bs.length = 8) (hc : s.rxCnt.val = 8)
    (h : ∀ k, k < 8 → s.mem.read k = bs[k]?) :
    execRxEnd s = .next { s with rxOut := .update (decFields (frameOfBytes bs)), rxCnt := 0 } := by
  simp [execRxEnd, Config.frameBytes, hc, s.memReadFrame_ok bs hl (by omega) h, State.emitUpdate]

/-- What the end event can do: answer, with `rx_cnt <- 0`, or fault on a byte that holds no value. -/
theorem execRxEnd_cases (s : State) :
    (∃ r, r ≠ .noResponse ∧ execRxEnd s = .next { s with rxOut := r, rxCnt := 0 }) ∨
    (s.rxCnt.val = 8 ∧ ∃ f, s.memReadFrame = .error f ∧ execRxEnd s = .fault f) := by
  unfold execRxEnd Config.frameBytes
  split
  · next hc =>
    split
    · next f hf => exact .inl ⟨.update (decFields f), by simp, rfl⟩
    · next e he => exact .inr ⟨hc, e, he, rfl⟩
  · exact .inl ⟨.formatError, by simp, rfl⟩

/-! ## DECODE and frame messages (R71, R124) -/

theorem decodeFrame_of_eight (bs : List Byte) (h : bs.length = 8) :
    decodeFrame bs = .update (decFields (frameOfBytes bs)) := by
  simp [decodeFrame, Config.frameBytes, h]

theorem decodeFrame_of_ne (bs : List Byte) (h : bs.length ≠ 8) : decodeFrame bs = .formatError := by
  simp [decodeFrame, Config.frameBytes, h]

theorem decodeFrame_ne_noResponse (bs : List Byte) : decodeFrame bs ≠ .noResponse := by
  unfold decodeFrame
  split <;> simp

/-- DECODE at the transaction level writes its answer and nothing else. -/
theorem State.answerDecode_eq (s : State) (bs : List Byte) : s.answerDecode bs = { s with decodeOut := decodeFrame bs } := by
  unfold State.answerDecode
  cases h : decodeFrame bs with
  | noResponse => exact absurd h (decodeFrame_ne_noResponse bs)
  | update u => rfl
  | formatError => rfl

/-- A received frame message is answered with its own fields and its unpacked colour. -/
theorem State.passMessage_receive (s : State) (p : PixelUpdate) :
    s.passMessage .receive p = { s with decodeOut := .update ⟨p, unpackColor p.color⟩ } := by
  have h : decodeFrame (frameBytes (frameOf p)) = .update ⟨p, unpackColor p.color⟩ := by
    rw [decodeFrame_of_eight _ (frameBytes_length _)]
    simp [decFields]
  simp [State.passMessage, State.answerDecode_eq, h]

theorem State.passMessage_send (s : State) (p : PixelUpdate) :
    s.passMessage .send p = { s with encodeOut := some (frameOf p) } := rfl

end Sys2Proof.Machine
end

