-- ==== Sys2Proof/Laws/PerInstr.lean ====
section
/-!
SUPPORT. A statement about every operation as syntax: its operand word is as wide as its row of spec/opcode_table.json
says (R73).
-/
namespace Sys2Proof.Laws.OperandWord

/-- The width in bits of a row's operand word (R73); DECODE takes every length (R34). -/
def width : Selector → Option Nat
  | .frame _ => some 64
  | .quant => some 32
  | .pack => some 16
  | .unpack => some 16
  | .encode => some 64
  | .decode => none
  | .rxByte => some 8
  | .rxEnd => some 0
  | .pack8 => some 32
  | .setPixel8 => some 72

def Statement (i : Instr) : Prop := ∀ n, width (selectorOf i) = some n → 8 * (encodeBytes i).length = n

theorem setPixel (dir : Direction) (x y u v : Coord) (c : Color16) : Statement (.setPixel dir x y u v c) := by
  intro n h; cases h; rfl

theorem msgUndefined (dir : Direction) (o : Byte) (x y u v : Coord) (c : Color16) :
    Statement (.msgUndefined dir o x y u v c) := by
  intro n h; cases h; rfl

theorem quant (r g b a : Byte) : Statement (.quant r g b a) := by
  intro n h; cases h; rfl

theorem pack (r g b a : Nibble) : Statement (.pack r g b a) := by
  intro n h; cases h; rfl

theorem unpack (c : Color16) : Statement (.unpack c) := by
  intro n h; cases h; rfl

theorem encode (o : Byte) (x y u v : Coord) (c : Color16) : Statement (.encode o x y u v c) := by
  intro n h; cases h; rfl

theorem decode (bs : List Byte) : Statement (.decode bs) := by
  intro n h; cases h

theorem rxByte (b : Byte) : Statement (.rxByte b) := by
  intro n h; cases h; rfl

theorem rxEnd : Statement .rxEnd := by
  intro n h; cases h; rfl

theorem pack8 (r g b a : Byte) : Statement (.pack8 r g b a) := by
  intro n h; cases h; rfl

theorem setPixel8 (x y u v : Coord) (r g b a : Byte) : Statement (.setPixel8 x y u v r g b a) := by
  intro n h; cases h; rfl

end Sys2Proof.Laws.OperandWord
end

