-- ==== Sys2Proof/Laws/Step.lean ====
section
/-!
SUPPORT. Sequencing the operations of a step, and what a step can do.
-/
namespace Sys2Proof.Machine

@[simp] theorem andThen_next (s : State) (f : State → Host.Outcome State Fault Refusal) : andThen (.next s) f = f s := rfl

@[simp] theorem andThen_fault (e : Fault) (f : State → Host.Outcome State Fault Refusal) :
    andThen (.fault e) f = .fault e := rfl

@[simp] theorem andThen_refused (e : Refusal) (f : State → Host.Outcome State Fault Refusal) :
    andThen (.refused e) f = .refused e := rfl

/-- Going on with nothing is doing nothing. -/
@[simp] theorem andThen_next_right (o : Host.Outcome State Fault Refusal) : andThen o .next = o := by
  cases o <;> rfl

theorem andThen_eq_next_iff (o : Host.Outcome State Fault Refusal) (f : State → Host.Outcome State Fault Refusal)
    (t : State) : andThen o f = .next t ↔ ∃ s, o = .next s ∧ f s = .next t := by
  cases o <;> simp

@[simp] theorem execAll_nil (s : State) : execAll [] s = .next s := rfl

@[simp] theorem execAll_cons (i : Instr) (is : List Instr) (s : State) :
    execAll (i :: is) s = andThen (exec i s) (execAll is) := rfl

theorem execAll_singleton (i : Instr) (s : State) : execAll [i] s = exec i s := andThen_next_right (exec i s)

theorem execAll_append (is js : List Instr) (s : State) :
    execAll (is ++ js) s = andThen (execAll is s) (execAll js) := by
  induction is generalizing s with
  | nil => rfl
  | cons i is ih =>
    simp only [List.cons_append, execAll_cons]
    cases exec i s with
    | next t => exact ih t
    | fault f => rfl
    | refused f => rfl

/-- Every operation but the receive events completes from every state, and writes, on the output ports of its own port
groups alone, values that do not depend on the state (R46, R49). -/
theorem exec_combinational_writes (i : Instr) (h : isReceiveEvent i = false) :
    ∃ q p u e d, ∀ s : State, exec i s = .next { s with
      quantOut := if PortGroup.quant ∈ portGroups i then q else s.quantOut
      packOut := if PortGroup.pack ∈ portGroups i then p else s.packOut
      unpackOut := if PortGroup.unpack ∈ portGroups i then u else s.unpackOut
      encodeOut := if PortGroup.encode ∈ portGroups i then e else s.encodeOut
      decodeOut := if PortGroup.decode ∈ portGroups i then d else s.decodeOut } := by
  cases i with
  | setPixel dir x y u v c =>
    cases dir
    · exact ⟨none, none, none, some _, .noResponse, fun s => rfl⟩
    · exact ⟨none, none, none, none, .update ⟨_, _⟩, fun s => congrArg Host.Outcome.next (s.passMessage_receive _)⟩
  | msgUndefined dir o x y u v c =>
    cases dir
    · exact ⟨none, none, none, some _, .noResponse, fun s => rfl⟩
    · exact ⟨none, none, none, none, .update ⟨_, _⟩, fun s => congrArg Host.Outcome.next (s.passMessage_receive _)⟩
  | decode bs => exact ⟨none, none, none, none, _, fun s => congrArg Host.Outcome.next (s.answerDecode_eq bs)⟩
  | quant r8 g8 b8 a8 => exact ⟨some _, none, none, none, .noResponse, fun s => rfl⟩
  | pack r4 g4 b4 a4 => exact ⟨none, some _, none, none, .noResponse, fun s => rfl⟩
  | unpack c16 => exact ⟨none, none, some _, none, .noResponse, fun s => rfl⟩
  | encode o x y u v c => exact ⟨none, none, none, some _, .noResponse, fun s => rfl⟩
  | pack8 r8 g8 b8 a8 => exact ⟨some _, some _, none, none, .noResponse, fun s => rfl⟩
  | setPixel8 x y u v r8 g8 b8 a8 => exact ⟨some _, some _, none, some _, .noResponse, fun s => rfl⟩
  | rxByte b => cases h
  | rxEnd => cases h

/-- Every operation but the receive events completes and writes only output ports. -/
theorem exec_combinational (i : Instr) (h : isReceiveEvent i = false) (s : State) :
    ∃ q p u e d, exec i s = .next { s with quantOut := q, packOut := p, unpackOut := u, encodeOut := e, decodeOut := d } := by
  obtain ⟨q, p, u, e, d, hx⟩ := exec_combinational_writes i h
  exact ⟨_, _, _, _, _, hx s⟩

/-- What a step is: idle where nothing is presented, the head input otherwise. -/
theorem step_nil (s : State) (h : s.stimulus = []) : step s = .next (s.beginStep []) := by
  simp [step, clockStep, h]

theorem step_cons (s : State) (inp : StepInput) (rest : List StepInput) (h : s.stimulus = inp :: rest) :
    step s = runInput inp (s.beginStep rest) := by
  simp [step, clockStep, h]

/-- What an input can do: be refused because its ports cannot carry it, or run its operations in order. -/
theorem runInput_cases (inp : StepInput) (s : State) :
    (∃ e, runInput inp s = .refused e ∧ ¬ inp.presentable) ∨
    (∃ is, decodeAll inp.drives = .ok is ∧ portConflict is = false ∧
      runInput inp s = if inp.rst then execAll (underReset is) s.resetDeserialiser else execAll (endLast is) s) := by
  unfold runInput
  cases h : decodeAll inp.drives with
  | error e =>
    refine .inl ⟨_, rfl, ?_⟩
    rintro ⟨is, hi, -⟩
    rw [h] at hi
    cases hi
  | ok is =>
    cases hp : portConflict is with
    | true =>
      refine .inl ⟨.portConflict, by simp [hp], ?_⟩
      rintro ⟨js, hj, hc⟩
      rw [h, Except.ok.injEq] at hj
      rw [hj, hc] at hp
      cases hp
    | false => exact .inr ⟨is, rfl, hp, by simp [hp]⟩

end Sys2Proof.Machine
end

