-- ==== Sys2Proof/Tests/Slice0.lean ====
section
/-!
SUPPORT. Tests of the model against the worked examples and vectors of 95_test_vectors.md (each names its vector), words
written out bit by bit from 30_encoding.md, the check of WellFormed refusing an ill-formed term, and, for every statement
with hypotheses, a concrete state and operands that meet them.
-/
namespace Sys2Proof.Tests

open Sys2Proof Sys2Proof.Machine

/-! ## Helpers -/

/-- A state after reset with a given count and buffer. -/
def rxState (n : Fin 10) (m : Memory) : State := { State.reset with rxCnt := n, mem := m }

/-- The buffer holding bytes from index 0 on. -/
def holding (bs : List Byte) : Memory := Memory.writeBytes [] 0 bs

/-- A state after reset to which inputs are presented. -/
def given (inps : List StepInput) : State := { State.reset with stimulus := inps }

/-- The outcome is a next state with a property. -/
def nextHas (o : Host.Outcome State Fault Refusal) (p : State → Bool) : Bool :=
  match o with
  | .next s => p s
  | .fault _ => false
  | .refused _ => false

/-- The bytes of E6: `01 00 00 00 14 09 00 0F`. -/
def frameE6 : List Byte := [0x01, 0x00, 0x00, 0x00, 0x14, 0x09, 0x00, 0x0F]

/-- Its Update (E6). -/
def updateE6 : Update := ⟨⟨1, 0, 0, 5, 9, 0x000F⟩, ⟨0, 0, 0, 255⟩⟩

/-! ## WellFormed -/

theorem test_wellFormed_refuses_opcode_one_as_undefined :
    (Instr.msgUndefined .receive 1 0 0 0 0 0).wellFormed = false := by decide

theorem test_wellFormed_takes_opcode_two_as_undefined :
    (Instr.msgUndefined .receive 2 0 0 0 0 0).wellFormed = true := by decide

theorem test_portConflict_refuses_two_byte_events : portConflict [.rxByte 0, .rxByte 1] = true := by decide

theorem test_portConflict_takes_byte_and_end : portConflict [.rxByte 0, .rxEnd] = false := by decide

/-! ## Decoding, words written out from R60, R64 and R73 -/

/-- opcode 00000001, regionX 0000000011, regionY 1111111111, locationX 1010000000, locationY 0001001101,
colour 1100 0110 0011 1111 (P2). -/
theorem test_decode_set_pixel :
    decode (.word (.frame .receive) [0b00000001, 0b00000000, 0b11111111, 0b11111010, 0b00000000, 0b01001101,
      0b11000110, 0b00111111]) = .ok (.setPixel .receive 3 1023 640 77 0xC63F) := by decide

/-- opcode 00000010, then alternating bits (V34). -/
theorem test_decode_msg_undefined :
    decode (.word (.frame .send) [0b00000010, 0b01010101, 0b01101010, 0b10100101, 0b01010110, 0b10101010, 0b10100101,
      0b11000011]) = .ok (.msgUndefined .send 2 341 682 341 682 0xA5C3) := by decide

/-- The document's scenario (E6). -/
theorem test_decode_encode :
    decode (.word .encode [0b00000001, 0b00000000, 0b00000000, 0b00000000, 0b00010100, 0b00001001, 0b00000000,
      0b00001111]) = .ok (.encode 1 0 0 5 9 0x000F) := by decide

theorem test_decode_quant :
    decode (.word .quant [0b11001000, 0b01100100, 0b00110010, 0b11111111]) = .ok (.quant 200 100 50 255) := by decide

theorem test_decode_pack : decode (.word .pack [0b11000110, 0b00111111]) = .ok (.pack 12 6 3 15) := by decide

theorem test_decode_unpack : decode (.word .unpack [0b11000110, 0b00111111]) = .ok (.unpack 0xC63F) := by decide

theorem test_decode_decode : decode (.word .decode [0x01, 0x02]) = .ok (.decode [1, 2]) := by decide

theorem test_decode_rx_byte : decode (.word .rxByte [0b01010101]) = .ok (.rxByte 0x55) := by decide

theorem test_decode_rx_end : decode (.word .rxEnd []) = .ok .rxEnd := by decide

theorem test_decode_pack8 : decode (.word .pack8 [200, 100, 50, 255]) = .ok (.pack8 200 100 50 255) := by decide

/-- regionX 0000000011, regionY 1111111111, locationX 1010000000, locationY 0001001101, then four channels (P2). -/
theorem test_decode_set_pixel8 :
    decode (.word .setPixel8 [0b00000000, 0b11111111, 0b11111010, 0b00000000, 0b01001101, 200, 100, 50, 255]) =
      .ok (.setPixel8 3 1023 640 77 200 100 50 255) := by decide

theorem test_decode_rejects_a_short_frame :
    decode (.word .encode [0, 0, 0, 0, 0, 0, 0]) = .error (.wrongLength .encode 7) := by decide

/-- R70, V18: over-wide operands are truncated, without spill. -/
theorem test_decode_call_truncates : decode (.call (.pack 16 17 255 31)) = .ok (.pack 0 1 15 15) := by decide

theorem test_table_word_set_pixel :
    decodeTableWord 64 0x0100000000000000 = some (.setPixel .receive 0 0 0 0 0) := by decide

theorem test_table_word_msg_undefined :
    decodeTableWord 64 0 = some (.msgUndefined .receive 0 0 0 0 0 0) := by decide

/-! ## The operations, one step each -/

/-- V3, V5: bin edges. -/
theorem test_quant_edges :
    nextHas (exec (.quant 8 9 25 26) State.reset) (fun t => t.quantOut = some ⟨0, 1, 1, 2⟩) = true := by decide

theorem test_quant_top :
    nextHas (exec (.quant 246 247 16 17) State.reset) (fun t => t.quantOut = some ⟨14, 15, 1, 1⟩) = true := by decide

/-- V16: lane order. -/
theorem test_pack_lane_order :
    nextHas (exec (.pack 1 2 3 4) State.reset) (fun t => t.packOut = some 0x1234) = true := by decide

/-- V19b. -/
theorem test_unpack_general :
    nextHas (exec (.unpack 0xA5C3) State.reset) (fun t => t.unpackOut = some ⟨170, 85, 204, 51⟩) = true := by decide

/-- E3: the split of locationX. -/
theorem test_encode_location_split :
    nextHas (exec (.encode 1 0 0 1023 0 0) State.reset) (fun t => t.encodeOut = some 0x0100000FFC000000) = true := by
  decide

/-- E6: byte 4 of the wire. -/
theorem test_encode_lane_four :
    nextHas (exec (.encode 1 0 0 5 9 0x000F) State.reset) (fun t => t.enByte 4 = some 0x14) = true := by decide

/-- E6, backwards. -/
theorem test_decode_scenario :
    nextHas (exec (.decode frameE6) State.reset) (fun t => t.decodeOut = .update updateE6) = true := by decide

/-- E7: seven and nine bytes. -/
theorem test_decode_wrong_lengths :
    (nextHas (exec (.decode [1, 0, 0, 0, 0x14, 9, 0]) State.reset) (fun t => t.decodeOut = .formatError) &&
      nextHas (exec (.decode (frameE6 ++ [0])) State.reset) (fun t => t.decodeOut = .formatError)) = true := by decide

/-- V41, V42: the eighth byte is stored, the ninth is not. -/
theorem test_rxByte_eighth :
    nextHas (exec (.rxByte 0x0F) (rxState 7 [])) (fun t => t.rxCnt = 8 && t.mem = [(7, 0x0F)]) = true := by decide

theorem test_rxByte_ninth :
    nextHas (exec (.rxByte 0x00) (rxState 8 (holding frameE6))) (fun t => t.rxCnt = 9 && t.mem = holding frameE6) =
      true := by decide

/-- V44: success. -/
theorem test_rxEnd_success :
    nextHas (exec .rxEnd (rxState 8 (holding frameE6))) (fun t => t.rxCnt = 0 && t.rxOut = .update updateE6) = true := by
  decide

/-- V47: the empty frame. -/
theorem test_rxEnd_empty :
    nextHas (exec .rxEnd State.reset) (fun t => t.rxCnt = 0 && t.updErr && !t.updValid) = true := by decide

/-- V17 after V6. -/
theorem test_pack8 :
    nextHas (exec (.pack8 200 100 50 255) State.reset) (fun t => t.packOut = some 0xC63F) = true := by decide

/-- P2, step 0. -/
theorem test_setPixel8 :
    nextHas (exec (.setPixel8 3 1023 640 77 200 100 50 255) State.reset) (fun t => t.encodeOut = some 0x0100FFFA004DC63F) =
      true := by decide

theorem test_setPixel_received :
    nextHas (exec (.setPixel .receive 0 0 5 9 0x000F) State.reset) (fun t => t.decodeOut = .update updateE6) = true := by
  decide

/-- V39: an undefined opcode is answered, not an error. -/
theorem test_msgUndefined_received :
    nextHas (exec (.msgUndefined .receive 222 694 1006 960 291 0x4567) State.reset)
      (fun t => t.decodeOut = .update ⟨⟨222, 694, 1006, 960, 291, 0x4567⟩, ⟨68, 85, 102, 119⟩⟩) = true := by decide

/-- V48: the last byte and the end in one step. -/
theorem test_step_byte_end :
    nextHas (step { rxState 7 (holding [1, 0, 0, 0, 0x14, 9, 0]) with stimulus := [byteEndStep 0x0F] })
      (fun t => t.rxCnt = 0 && t.rxOut = .update updateE6) = true := by decide

/-- V53: reset wins over a byte and an end; P4: a combinational group computes during reset. -/
theorem test_step_reset_wins :
    nextHas (step { rxState 7 (holding [1, 2, 3, 4, 5, 6, 7]) with
        stimulus := [⟨true, [encode (.rxByte 9), encode .rxEnd, encode (.pack 1 2 3 4)]⟩] })
      (fun t => t.rxCnt = 0 && !t.updErr && !t.updValid && t.packOut = some 0x1234) = true := by decide

/-- The host's probe: a bare table word is the first step after reset. -/
theorem test_withFetchWord_runs_rx_byte :
    nextHas (step (State.reset.withFetchWord 8 0x01)) (fun t => t.rxCnt = 1 && t.mem = [(0, 0x01)]) = true := by decide

/-! ## Hypotheses that are met -/

theorem witness_StepRunsDecodedOperation :
    (given [⟨false, [.word .pack [0x12, 0x34]]⟩]).stimulus = ⟨false, [.word .pack [0x12, 0x34]]⟩ :: [] ∧
      decode (.word .pack [0x12, 0x34]) = .ok (.pack 1 2 3 4) := by decide

/-- A state in the middle of a frame meets the invariant. -/
theorem witness_invariant_at_a_full_buffer : State.Inv (rxState 8 (holding frameE6)) where
  wf := by decide
  inBuffer := by decide
  written := by decide

theorem witness_StepKeepsInvariant :
    ∃ t, step { rxState 8 (holding frameE6) with stimulus := [byteStep 0] } = .next t ∧ t.rxCnt = 9 := ⟨_, rfl, rfl⟩

theorem witness_presentable : (byteEndStep 0).presentable := ⟨_, rfl, rfl⟩

theorem witness_not_presentable : ¬ (⟨false, [.word .pack [0]]⟩ : StepInput).presentable := by
  rintro ⟨is, h, -⟩
  cases h

/-- A quantiser other than the three of R93: `c / 17` rounded up. -/
theorem witness_AnyLawfulQuantiser : QuantiserLaws (fun c => BitVec.ofNat 4 ((c.toNat + 16) / 17)) where
  leftInverse := by decide
  monotone := by
    intro c d h
    have hc := c.isLt
    have hd := d.isLt
    simp only [BitVec.le_def, BitVec.toNat_ofNat] at h ⊢
    omega

theorem witness_DecodeAnswers_lengths :
    ([] : List Byte).length ≠ 8 ∧ (frameE6 ++ [0]).length ≠ 8 ∧ frameE6.length = 8 := by decide

theorem witness_DecodeAnswers_frame :
    (0x010000001409000F : Frame64) = (0x01 : Byte) ++ (0x00 : Byte) ++ (0x00 : Byte) ++ (0x00 : Byte) ++
      (0x14 : Byte) ++ (0x09 : Byte) ++ (0x00 : Byte) ++ (0x0F : Byte) := by decide

/-- Opcodes 0, 2 and 255: the neighbours of the defined one and the end of the range. -/
theorem witness_UndefinedOpcodes :
    (0 : Frame64).extractLsb' 56 8 ≠ 1 ∧ (0x0200000000000000 : Frame64).extractLsb' 56 8 ≠ 1 ∧
      (0xFF00000000000000 : Frame64).extractLsb' 56 8 ≠ 1 := by decide

theorem witness_SetPixelPattern :
    (0x01FFFFFFFFFFFFFF : Frame64) &&& 0xFF00000000000000 = 0x0100000000000000 ∧
      ¬ ((0x0200000000000000 : Frame64) &&& 0xFF00000000000000 = 0x0100000000000000) := by decide

/-- The first and the last bin, and the step between two. -/
theorem witness_QuantTable :
    nextHas (exec (.quant 0 0 0 0) State.reset) (fun t => t.quantOut = some ⟨0, 0, 0, 0⟩) = true ∧
      nextHas (exec (.quant 255 255 255 255) State.reset) (fun t => t.quantOut = some ⟨15, 15, 15, 15⟩) = true := by
  decide

theorem witness_DecodeOfEncode : (Instr.msgUndefined .send 0 1 2 3 4 5).wellFormed = true := by decide

theorem witness_EncodeOfDecode : decode (.word .unpack [0x12, 0x34]) = .ok (.unpack 0x1234) := by decide

theorem witness_RxByte_counts : (rxState 7 []).rxCnt.val < 8 ∧ 8 ≤ (rxState 8 []).rxCnt.val ∧ 8 ≤ (rxState 9 []).rxCnt.val := by
  decide

theorem witness_RxEnd_full :
    (rxState 8 (holding frameE6)).rxCnt = 8 ∧
      ∀ k, k < 8 → Memory.read (rxState 8 (holding frameE6)).mem k = frameE6[k]? := by decide

theorem witness_RxEnd_other_counts : (rxState 7 []).rxCnt ≠ 8 ∧ (rxState 9 []).rxCnt ≠ 8 ∧ (rxState 0 []).rxCnt ≠ 8 := by
  decide

theorem witness_RxEndFaults_first_and_last :
    Memory.read (rxState 8 []).mem 0 = none ∧
      (Memory.read (rxState 8 (holding [1, 2, 3, 4, 5, 6, 7])).mem 7 = none ∧
        ∀ j, j < 7 → (Memory.read (rxState 8 (holding [1, 2, 3, 4, 5, 6, 7])).mem j).isSome = true) := by decide

theorem witness_ByteEnd_listed_either_way :
    (given [byteEndStep 9]).stimulus = byteEndStep 9 :: [] ∧
      (given [⟨false, [encode .rxEnd, encode (.rxByte 9)]⟩]).stimulus = ⟨false, [encode .rxEnd, encode (.rxByte 9)]⟩ :: [] ∧
      (rxState 6 []).rxCnt.val ≠ 7 ∧ (rxState 8 []).rxCnt.val ≠ 7 := by decide

theorem witness_ByteEnd_seven_held :
    (rxState 7 (holding [1, 2, 3, 4, 5, 6, 7])).rxCnt = 7 ∧
      ∀ k, k < 7 → Memory.read (rxState 7 (holding [1, 2, 3, 4, 5, 6, 7])).mem k =
        ([1, 2, 3, 4, 5, 6, 7] : List Byte)[k]? := by decide

theorem witness_Idle : (given [idleStep]).stimulus = idleStep :: [] ∧ State.reset.stimulus = [] := by decide

theorem witness_ResetWins :
    (given [⟨true, [encode .rxEnd]⟩]).stimulus = ⟨true, [encode .rxEnd]⟩ :: [] ∧
      (⟨true, [encode .rxEnd]⟩ : StepInput).presentable := ⟨rfl, _, rfl, rfl⟩

/-- Eight bytes with an idle step between, the last byte with the end. -/
theorem witness_Delivers_eight :
    Delivers [1, 0, 0, 0, 0x14, 9, 0, 0x0F] [byteStep 1, byteStep 0, idleStep, byteStep 0, byteStep 0, byteStep 0x14,
      byteStep 9, byteStep 0, byteEndStep 0x0F] :=
  .byte _ (.byte _ (.wait (.byte _ (.byte _ (.byte _ (.byte _ (.byte _ (.finishWith _))))))))

theorem witness_Delivers_empty : Delivers [] [idleStep, endStep] := .wait .finish

theorem witness_ReceivePort : (given ([endStep] ++ [byteStep 1])).rxCnt = 0 ∧
    (given ([endStep] ++ [byteStep 1])).stimulus = [endStep] ++ [byteStep 1] := by decide

theorem witness_ResponsesInOrder :
    ∃ frames : List (List Byte × List StepInput), frames.length = 2 ∧ (∀ p ∈ frames, Delivers p.1 p.2) ∧
      (given (frames.flatMap fun p => p.2)).stimulus = frames.flatMap (fun p => p.2) :=
  ⟨[([], [endStep]), ([7], [byteEndStep 7])], rfl, by
    intro p hp
    simp only [List.mem_cons, List.not_mem_nil, or_false] at hp
    rcases hp with rfl | rfl
    · exact .finish
    · exact .finishWith 7, rfl⟩

theorem witness_ResetAbandons :
    (given (([1, 2, 3] : List Byte).map byteStep ++ resetStep :: ([endStep] ++ []))).stimulus =
      ([1, 2, 3] : List Byte).map byteStep ++ resetStep :: ([endStep] ++ []) := rfl

theorem witness_Strobes_end_event : (byteEndStep 1).endsFrame := ⟨rfl, _, rfl, by decide⟩

theorem witness_Strobes_no_end_event : ∃ t, step (given [byteStep 1]) = .next t ∧ t.updErr = false := ⟨_, rfl, rfl⟩

theorem witness_CounterTransitions :
    (given [byteStep 1]).stimulus = byteStep 1 :: [] ∧ (given [endStep]).stimulus = endStep :: [] ∧
      (given [idleStep]).stimulus = idleStep :: [] ∧ (given [resetStep]).stimulus = resetStep :: [] := by decide

/-- Two states that differ in a byte left over at index 3. -/
theorem witness_Leftover : State.SameButLeftover (rxState 1 [(0, 5), (3, 1)]) (rxState 1 [(0, 5), (3, 2)]) where
  rest := rfl
  current := by decide

theorem witness_Combinational : isReceiveEvent (.decode []) = false := by decide

theorem witness_RxByte_answers : ∃ t, exec (.rxByte 1) (rxState 0 []) = .next t ∧ t.rxCnt = 1 := ⟨_, rfl, rfl⟩

theorem witness_RxByte_store_index :
    (rxState 0 []).rxStoreIndex = some 0 ∧ (rxState 7 []).rxStoreIndex = some 7 ∧ (rxState 8 []).rxStoreIndex = none := by
  decide

theorem witness_RxEnd_answers : ∃ t, exec .rxEnd (rxState 3 []) = .next t ∧ t.rxCnt = 0 := ⟨_, rfl, rfl⟩

theorem witness_PortGroups :
    isReceiveEvent (.pack8 1 2 3 4) = false ∧ ∀ g ∈ portGroups (.pack8 1 2 3 4), g ∉ portGroups .rxEnd := by decide

end Sys2Proof.Tests
end

section
/-!
PROOFS. Frames as byte sequences (R40) and the lengths DECODE takes (R43, R124).
-/
namespace Sys2Proof

/-- Byte `k` of the wire order is lane `k` (R40). -/
theorem frameBytes_getElem? (f : Frame64) {k : Nat} (h : k < 8) : (frameBytes f)[k]? = some (laneOf f k) := by
  interval_cases k <;> rfl

end Sys2Proof

namespace Sys2Proof.Machine

/-- DECODE writes its answer on its own port and nothing else (R34, R124). -/
theorem exec_decode (bs : List Byte) (s : State) :
    exec (.decode bs) s = .next { s with decodeOut := decodeFrame bs } :=
  congrArg Host.Outcome.next (s.answerDecode_eq bs)

/-- ENCODE writes the frame of its operands on its own port and nothing else (R32, R120). -/
theorem exec_encode (o : Byte) (x y u v : Coord) (c : Color16) (s : State) :
    exec (.encode o x y u v c) s = .next { s with encodeOut := some (frameOf ⟨o, x, y, u, v, c⟩) } := rfl

/-- R43: eight bytes alone are well formed. -/
theorem decodeFrame_eq_formatError_iff (bs : List Byte) : decodeFrame bs = .formatError ↔ bs.length ≠ 8 := by
  constructor
  · intro h hl
    rw [decodeFrame_of_eight bs hl] at h
    cases h
  · exact decodeFrame_of_ne bs

/-- The frame's own bytes decode to its fields (R123, R125). -/
theorem decodeFrame_frameBytes (f : Frame64) : decodeFrame (frameBytes f) = .update (decFields f) := by
  rw [decodeFrame_of_eight _ (frameBytes_length f), frameOfBytes_frameBytes]

/-- Where ENCODE is driven, `en_byte[k]` is byte `k` of the frame (R32, R40). -/
theorem State.enByte_of_encodeOut {s : State} {f : Frame64} (hf : s.encodeOut = some f) {k : Nat} (hk : k < 8) :
    s.enByte k = (frameBytes f)[k]? := by
  rw [frameBytes_getElem? f hk, State.enByte, hf, Option.map_some]

end Sys2Proof.Machine

namespace Sys2Proof

open Machine

/-- Settles O24: DECODE's answer is all it writes, and that answer is FormatError off length 8 alone; the bytes ENCODE
answers are those of a frame, so they are eight. -/
theorem decodeFailsExactlyOnWrongLengths : Obligations.DecodeFailsExactlyOnWrongLengths := by
  refine ⟨fun bs s => ?_, fun o x y u v c s => ?_⟩
  · rw [exec_decode, ← decodeFrame_eq_formatError_iff]
    refine ⟨fun h => ?_, fun h => by rw [h]⟩
    injection h with h
    exact congrArg State.decodeOut h
  · have henc := exec_encode o x y u v c s
    generalize frameOf ⟨o, x, y, u, v, c⟩ = f at henc
    refine ⟨_, frameBytes f, decFields f, henc, frameBytes_length f, fun k hk => State.enByte_of_encodeOut rfl hk, ?_⟩
    rw [exec_decode, decodeFrame_frameBytes]

/-- Settles O29: eight bytes are the frame they concatenate to, and the two conversions undo each other. -/
theorem framesAreBigEndian : Obligations.FramesAreBigEndian := by
  refine ⟨fun b0 b1 b2 b3 b4 b5 b6 b7 => ?_, fun f => ?_⟩
  · have hcat := frameOfBytes_eight b0 b1 b2 b3 b4 b5 b6 b7
    refine ⟨hcat, ?_⟩
    rw [← hcat]
    exact frameBytes_frameOfBytes _ rfl
  · exact ⟨frameOfBytes_frameBytes f, frameBytes_length f, fun k hk => frameBytes_getElem? f hk⟩

end Sys2Proof
end

section
/-!
PROOFS. The encodings of 30_encoding.md: the two words of a frame (R62, R67, R68), the colour in its last bytes (R64),
the opcode as payload (R71, R72), and operands reduced to their fields (R70).
-/
namespace Sys2Proof

/-! ## The two words of a frame (R62) -/

/-- `W0 = opcode ++ regionX ++ regionY ++ locationX[9:6]` (R62). -/
def frameHigh (p : PixelUpdate) : BitVec 32 := p.opcode ++ p.regionX ++ p.regionY ++ p.locationX.extractLsb' 6 4

/-- `W1 = locationX[5:0] ++ locationY ++ color` (R62). -/
def frameLow (p : PixelUpdate) : BitVec 32 := p.locationX.extractLsb' 0 6 ++ p.locationY ++ p.color

theorem frameHigh_append_frameLow (p : PixelUpdate) : frameHigh p ++ frameLow p = frameOf p := by
  apply BitVec.eq_of_toNat_eq
  have hu := p.locationX.isLt
  rw [frameOf_toNat]
  simp only [frameHigh, frameLow, toNat_concat, toNat_slice]
  omega

theorem frameHigh_eq_or (p : PixelUpdate) :
    frameHigh p = (p.opcode.setWidth 32 <<< 24) ||| (p.regionX.setWidth 32 <<< 14) |||
      (p.regionY.setWidth 32 <<< 4) ||| (p.locationX.setWidth 32 >>> 6) := by
  have hslice : (p.locationX.extractLsb' 6 4).setWidth 32 = p.locationX.setWidth 32 >>> 6 := by
    apply BitVec.eq_of_toNat_eq
    have hu := p.locationX.isLt
    simp only [BitVec.toNat_setWidth, BitVec.toNat_ushiftRight, toNat_slice, Nat.shiftRight_eq_div_pow]
    omega
  rw [← BitVec.setWidth_eq (frameHigh p), frameHigh,
    BitVec.setWidth_append_append_append_eq_shiftLeft_setWidth_or, hslice]

theorem frameLow_eq_or (p : PixelUpdate) :
    frameLow p = ((p.locationX.setWidth 32 &&& 0x3F) <<< 26) ||| (p.locationY.setWidth 32 <<< 16) |||
      p.color.setWidth 32 := by
  have hslice : (p.locationX.extractLsb' 0 6).setWidth 32 = p.locationX.setWidth 32 &&& 0x3F := by
    apply BitVec.eq_of_toNat_eq
    have hmask : (0x3F : BitVec 32).toNat = 2 ^ 6 - 1 := rfl
    have hu := p.locationX.isLt
    rw [BitVec.toNat_and, hmask, Nat.and_two_pow_sub_one_eq_mod]
    simp only [BitVec.toNat_setWidth, toNat_slice]
    omega
  rw [← BitVec.setWidth_eq (frameLow p), frameLow, BitVec.setWidth_append_append_eq_shiftLeft_setWidth_or, hslice]

theorem frameHigh_fields (p : PixelUpdate) :
    (frameHigh p).extractLsb' 24 8 = p.opcode ∧ (frameHigh p).extractLsb' 14 10 = p.regionX ∧
    (frameHigh p).extractLsb' 4 10 = p.regionY ∧ (frameHigh p).extractLsb' 0 4 = p.locationX.extractLsb' 6 4 := by
  have ho := p.opcode.isLt; have hx := p.regionX.isLt; have hy := p.regionY.isLt
  refine ⟨?_, ?_, ?_, ?_⟩ <;> apply BitVec.eq_of_toNat_eq <;> simp only [frameHigh, toNat_concat, toNat_slice] <;> omega

theorem frameLow_fields (p : PixelUpdate) :
    (frameLow p).extractLsb' 26 6 = p.locationX.extractLsb' 0 6 ∧ (frameLow p).extractLsb' 16 10 = p.locationY ∧
    (frameLow p).extractLsb' 0 16 = p.color := by
  have hv := p.locationY.isLt; have hc := p.color.isLt
  refine ⟨?_, ?_, ?_⟩ <;> apply BitVec.eq_of_toNat_eq <;> simp only [frameLow, toNat_concat, toNat_slice] <;> omega

/-- `locationX` straddles the two words: `W0[3:0] ++ W1[31:26]` (R68). -/
theorem locationX_of_words (w0 w1 : BitVec 32) :
    (fieldsOf (w0 ++ w1)).locationX = w0.extractLsb' 0 4 ++ w1.extractLsb' 26 6 := by
  apply BitVec.eq_of_toNat_eq
  have h1 := w1.isLt
  simp only [fieldsOf, toNat_concat, toNat_slice]
  omega

/-- The byte form of the same: `((B3 & 0x0F) << 6) | (B4 >> 2)`, `B3` the last byte of `W0` and `B4` the first of `W1`
(R68). -/
theorem locationX_of_words_toNat (w0 w1 : BitVec 32) :
    (fieldsOf (w0 ++ w1)).locationX.toNat = (w0.toNat % 256) % 16 * 64 + w1.toNat / 2 ^ 24 / 4 := by
  have h1 := w1.isLt
  rw [locationX_of_words]
  simp only [toNat_concat, toNat_slice]
  omega

/-! ## The colour in the last two bytes (R64) -/

theorem laneOf_six (f : Frame64) : laneOf f 6 = (fieldsOf f).color.extractLsb' 8 8 :=
  (BitVec.extractLsb'_extractLsb'_of_le (by decide)).symm

theorem laneOf_seven (f : Frame64) : laneOf f 7 = (fieldsOf f).color.extractLsb' 0 8 :=
  (BitVec.extractLsb'_extractLsb'_of_le (by decide)).symm

theorem color16Of_high (n : Nibbles) : (color16Of n).extractLsb' 8 8 = n.r4 ++ n.g4 := by
  apply BitVec.eq_of_toNat_eq
  rw [toNat_slice, color16Of_toNat, toNat_concat]
  omega

theorem color16Of_low (n : Nibbles) : (color16Of n).extractLsb' 0 8 = n.b4 ++ n.a4 := by
  apply BitVec.eq_of_toNat_eq
  rw [toNat_slice, color16Of_toNat, toNat_concat]
  omega

/-! ## The opcode (R71, R72) -/

/-- `F[55:0]` holds no bit of the opcode. -/
theorem frameOf_low_of_opcode (p : PixelUpdate) (o : Byte) :
    (frameOf { p with opcode := o }).extractLsb' 0 56 = (frameOf p).extractLsb' 0 56 := by
  apply BitVec.eq_of_toNat_eq
  simp only [toNat_slice, frameOf_toNat]
  omega

/-- The first of eight bytes is the opcode and touches no other field. -/
theorem frameOfBytes_cons (o o' : Byte) (bs : List Byte) (h : bs.length = 7) :
    frameOfBytes (o' :: bs) = frameOf { fieldsOf (frameOfBytes (o :: bs)) with opcode := o' } := by
  have hbs := beConcat_lt bs
  have ho := o.isLt
  have ho' := o'.isLt
  rw [h] at hbs
  apply BitVec.eq_of_toNat_eq
  rw [frameOf_toNat]
  simp only [fieldsOf, toNat_slice, frameOfBytes, beConcat, h, BitVec.toNat_ofNat]
  omega

theorem fieldsOf_frameOfBytes_cons (o o' : Byte) (bs : List Byte) (h : bs.length = 7) :
    fieldsOf (frameOfBytes (o' :: bs)) = { fieldsOf (frameOfBytes (o :: bs)) with opcode := o' } := by
  rw [frameOfBytes_cons o o' bs h, fieldsOf_frameOf]

/-- The mask of R71 keeps the opcode and clears the other 56 bits. -/
theorem and_opcodeMask (f : Frame64) : f &&& 0xFF00000000000000 = (fieldsOf f).opcode ++ 0#56 := by
  have hmask : (0xFF00000000000000 : Frame64) = BitVec.allOnes 8 ++ 0#56 := by decide
  have hsplit : f = f.extractLsb' 56 8 ++ f.extractLsb' 0 56 :=
    (BitVec.extractLsb'_append_extractLsb' (w := 8) (len := 56) (x := f)).symm
  calc f &&& 0xFF00000000000000
      = (f.extractLsb' 56 8 ++ f.extractLsb' 0 56) &&& (BitVec.allOnes 8 ++ 0#56) := by rw [← hsplit, hmask]
    _ = f.extractLsb' 56 8 ++ 0#56 := by rw [BitVec.and_append, BitVec.and_allOnes, BitVec.and_zero]

/-- R71: the pattern is a test of the opcode. -/
theorem and_opcodeMask_eq_iff (f : Frame64) :
    f &&& 0xFF00000000000000 = 0x0100000000000000 ↔ (fieldsOf f).opcode = Config.opcSetPixel := by
  have hmatch : (0x0100000000000000 : Frame64) = Config.opcSetPixel ++ 0#56 := by decide
  rw [and_opcodeMask, hmatch, BitVec.append_left_inj]

theorem messageOf_eq_setPixel_iff (dir : Direction) (f : Frame64) (x y u v : Coord) (c : Color16) :
    messageOf dir f = .setPixel dir x y u v c ↔ fieldsOf f = ⟨Config.opcSetPixel, x, y, u, v, c⟩ := by
  generalize hp : fieldsOf f = p
  obtain ⟨o, x', y', u', v', c'⟩ := p
  by_cases ho : o = Config.opcSetPixel <;> simp [messageOf, hp, ho]

theorem decode_frameBytes (dir : Direction) (f : Frame64) :
    decode (.word (.frame dir) (frameBytes f)) = .ok (messageOf dir f) := by
  simp [decode, decodeWord, Config.frameBytes]

end Sys2Proof

namespace Sys2Proof.Machine

/-! ## The operations of color_quantizer -/

/-- QUANT writes the four levels on its own port and nothing else (R29, R90). -/
theorem exec_quant (r g b a : Byte) (s : State) :
    exec (.quant r g b a) s = .next { s with quantOut := some (quantColor ⟨r, g, b, a⟩) } := rfl

/-- PACK writes the packed colour on its own port and nothing else (R30, R94). -/
theorem exec_pack (r g b a : Nibble) (s : State) :
    exec (.pack r g b a) s = .next { s with packOut := some (color16Of ⟨r, g, b, a⟩) } := rfl

/-- UNPACK writes the expanded channels on its own port and nothing else (R31, R96). -/
theorem exec_unpack (c : Color16) (s : State) :
    exec (.unpack c) s = .next { s with unpackOut := some (unpackColor c) } := rfl

/-! ## The opcode in DECODE -/

/-- R72: the opcode of eight bytes is the only part of their Update that the first byte reaches. -/
theorem decodeFrame_cons (o o' : Byte) (bs : List Byte) (h : bs.length = 7) :
    decodeFrame (o' :: bs) = .update ⟨{ fieldsOf (frameOfBytes (o :: bs)) with opcode := o' },
      unpackColor (fieldsOf (frameOfBytes (o :: bs))).color⟩ := by
  rw [decodeFrame_of_eight _ (by simp [h]), decFields, fieldsOf_frameOfBytes_cons o o' bs h]

end Sys2Proof.Machine

namespace Sys2Proof

open Machine

/-- Settles O20: the frame is its two words, each the shift-and-or of its fields. -/
theorem encodeWordFormulas : Obligations.EncodeWordFormulas := by
  intro o x y u v c s
  obtain ⟨hop, hrx, hry, hhi⟩ := frameHigh_fields ⟨o, x, y, u, v, c⟩
  obtain ⟨hlo, hly, hcol⟩ := frameLow_fields ⟨o, x, y, u, v, c⟩
  refine ⟨frameHigh ⟨o, x, y, u, v, c⟩, frameLow ⟨o, x, y, u, v, c⟩, ?_, frameHigh_eq_or _, frameLow_eq_or _,
    hop, hrx, hry, hhi, hlo, hly, hcol⟩
  rw [frameHigh_append_frameLow, exec_encode]

/-- Settles O22: the nibbles of a packed colour are the ones packed, and lanes 6 and 7 are the two halves of the
frame's colour field. -/
theorem colourSitsInTheLastTwoBytes : Obligations.ColourSitsInTheLastTwoBytes := by
  refine ⟨fun n o x y u v s => ?_, fun c s => ⟨nibblesOf c, ?_⟩⟩
  · have hn := nibblesOf_color16Of n
    have hcol : (fieldsOf (frameOf ⟨o, x, y, u, v, color16Of n⟩)).color = color16Of n := by rw [fieldsOf_frameOf]
    refine ⟨color16Of n, frameOf ⟨o, x, y, u, v, color16Of n⟩, _, exec_pack _ _ _ _ s,
      congrArg Nibbles.r4 hn, congrArg Nibbles.g4 hn, congrArg Nibbles.b4 hn, congrArg Nibbles.a4 hn,
      color16Of_toNat n, exec_encode o x y u v _ s, rfl, hcol, ?_, ?_⟩
    · simp only [State.enByte, Option.map_some, laneOf_six, hcol, color16Of_high]
    · simp only [State.enByte, Option.map_some, laneOf_seven, hcol, color16Of_low]
  · rw [exec_pack, color16Of_nibblesOf]

/-- Settles O25: the opcode is the top byte of the frame, and replacing it replaces that field alone. -/
theorem opcodeIsNotInterpreted : Obligations.OpcodeIsNotInterpreted := by
  refine ⟨fun o o' x y u v c s => ?_, fun o o' b1 b2 b3 b4 b5 b6 b7 s => ?_⟩
  · have hopcode (p : PixelUpdate) : (frameOf p).extractLsb' 56 8 = p.opcode :=
      congrArg PixelUpdate.opcode (fieldsOf_frameOf p)
    exact ⟨_, _, exec_encode o x y u v c s, exec_encode o' x y u v c s, hopcode _, hopcode _,
      frameOf_low_of_opcode ⟨o', x, y, u, v, c⟩ o⟩
  · have hdec (q : Byte) := decodeFrame_cons o q [b1, b2, b3, b4, b5, b6, b7] rfl
    refine ⟨_, (exec_decode _ s).trans (by rw [hdec o]), rfl, ?_⟩
    · rw [exec_decode, hdec o']

/-- Settles O28: ENCODE's frame is its two words, and DECODE reads `locationX` across their boundary. -/
theorem locationXSplitsFourHighSixLow : Obligations.LocationXSplitsFourHighSixLow := by
  refine ⟨fun o x y u v c s => ?_, fun w0 w1 s => ?_⟩
  · obtain ⟨-, -, -, hhi⟩ := frameHigh_fields ⟨o, x, y, u, v, c⟩
    obtain ⟨hlo, -, -⟩ := frameLow_fields ⟨o, x, y, u, v, c⟩
    exact ⟨_, _, _, exec_encode o x y u v c s, congrArg some (frameHigh_append_frameLow _).symm, hhi, hlo⟩
  · refine ⟨decFields (w0 ++ w1), ?_, locationX_of_words w0 w1, rfl, locationX_of_words_toNat w0 w1⟩
    rw [exec_decode, decodeFrame_frameBytes]

/-- Settles O31: a call decodes to its operation on operands reduced modulo their widths, and that operation answers a
next state whatever they are. -/
theorem overWideOperandsAreTruncated : Obligations.OverWideOperandsAreTruncated := by
  refine ⟨fun r g b a s => ?_, fun r g b a s => ?_, fun c s => ?_, fun o x y u v c s => ?_⟩
  · exact ⟨⟨.ofNat 4 r, .ofNat 4 g, .ofNat 4 b, .ofNat 4 a⟩, _, rfl, exec_pack _ _ _ _ s, BitVec.toNat_ofNat _ _,
      BitVec.toNat_ofNat _ _, BitVec.toNat_ofNat _ _, BitVec.toNat_ofNat _ _⟩
  · exact ⟨⟨.ofNat 8 r, .ofNat 8 g, .ofNat 8 b, .ofNat 8 a⟩, _, rfl, exec_quant _ _ _ _ s, BitVec.toNat_ofNat _ _,
      BitVec.toNat_ofNat _ _, BitVec.toNat_ofNat _ _, BitVec.toNat_ofNat _ _⟩
  · exact ⟨.ofNat 16 c, _, rfl, exec_unpack _ s, BitVec.toNat_ofNat _ _⟩
  · refine ⟨⟨.ofNat 8 o, .ofNat 10 x, .ofNat 10 y, .ofNat 10 u, .ofNat 10 v, .ofNat 16 c⟩, _, _, rfl,
      exec_encode _ _ _ _ _ _ s, rfl, BitVec.toNat_ofNat _ _, BitVec.toNat_ofNat _ _, BitVec.toNat_ofNat _ _,
      BitVec.toNat_ofNat _ _, BitVec.toNat_ofNat _ _, BitVec.toNat_ofNat _ _, ?_⟩
    simp only [frameOf_toNat, BitVec.toNat_ofNat]

/-- Settles O32: a frame is SET_PIXEL when its opcode is 1, which is what the masked pattern tests, and its operands are
its other five fields. -/
theorem setPixelMatchesItsPattern : Obligations.SetPixelMatchesItsPattern := by
  intro dir f x y u v c
  rw [decode_frameBytes, Except.ok.injEq, messageOf_eq_setPixel_iff, and_opcodeMask_eq_iff]
  constructor
  · intro h
    exact ⟨congrArg PixelUpdate.opcode h, (congrArg PixelUpdate.regionX h).symm, (congrArg PixelUpdate.regionY h).symm,
      (congrArg PixelUpdate.locationX h).symm, (congrArg PixelUpdate.locationY h).symm,
      (congrArg PixelUpdate.color h).symm⟩
  · rintro ⟨ho, rfl, rfl, rfl, rfl, rfl⟩
    rw [← ho]
    rfl

end Sys2Proof
end

section
/-!
PROOFS. PACK and UNPACK of 40_color_quantizer.md: the packed word (R94), a level expanded (R97), a word unpacked (R96)
and the two in a row (R98).
-/
namespace Sys2Proof.Machine

/-! ## A level expanded (R97) -/

/-- `k * 17 = k * 16 + k`, and `k < 16`. -/
theorem expand1_eq_append_self (k : Nibble) : expand1 k = k ++ k := by
  apply BitVec.eq_of_toNat_eq
  rw [expand1_toNat, toNat_concat]
  omega

theorem expand1_eq_shiftLeft_or (k : Nibble) : expand1 k = (k.setWidth 8 <<< 4) ||| k.setWidth 8 := by
  rw [expand1_eq_append_self, ← BitVec.setWidth_eq (k ++ k), BitVec.setWidth_append_eq_shiftLeft_setWidth_or]

/-! ## A packed colour unpacked (R95, R96) -/

/-- UNPACK of what PACK answers expands the nibbles that were packed. -/
theorem unpackColor_color16Of (n : Nibbles) :
    unpackColor (color16Of n) = ⟨expand1 n.r4, expand1 n.g4, expand1 n.b4, expand1 n.a4⟩ := by
  rw [unpackColor, nibblesOf_color16Of]

theorem exec_unpack_color16Of (n : Nibbles) (s : State) :
    exec (.unpack (color16Of n)) s =
      .next { s with unpackOut := some ⟨expand1 n.r4, expand1 n.g4, expand1 n.b4, expand1 n.a4⟩ } := by
  rw [exec_unpack, unpackColor_color16Of]

end Sys2Proof.Machine

namespace Sys2Proof

open Machine

/-- Settles O11: PACK answers the concatenation of its nibbles, and a call's operands are first reduced to four bits. -/
theorem packConcatenatesNibbles : Obligations.PackConcatenatesNibbles := by
  refine ⟨fun r g b a s => ?_, fun r g b a s => ?_⟩
  · exact ⟨color16Of ⟨r, g, b, a⟩, exec_pack r g b a s, rfl, color16Of_toNat _⟩
  · refine ⟨.pack (.ofNat 4 r) (.ofNat 4 g) (.ofNat 4 b) (.ofNat 4 a), _, rfl, exec_pack _ _ _ _ s, ?_⟩
    simp only [color16Of_toNat, BitVec.toNat_ofNat]

/-- Settles O14: the word of four equal nibbles is their packing, and `k * 17` is the nibble written twice. -/
theorem expandWritesTheNibbleTwice : Obligations.ExpandWritesTheNibbleTwice := by
  intro k s
  have hk := k.isLt
  exact ⟨expand1 k, exec_unpack_color16Of ⟨k, k, k, k⟩ s, expand1_toNat k, by omega, expand1_eq_append_self k,
    expand1_eq_shiftLeft_or k⟩

/-- Settles O15: UNPACK expands the nibbles that PACK packed. -/
theorem unpackAfterPackScalesEachLevel : Obligations.UnpackAfterPackScalesEachLevel := by
  intro r g b a s
  exact ⟨color16Of ⟨r, g, b, a⟩, _, _, exec_pack r g b a s, rfl, exec_unpack_color16Of ⟨r, g, b, a⟩ _,
    expand1_toNat r, expand1_toNat g, expand1_toNat b, expand1_toNat a⟩

/-- Settles O13: UNPACK expands the four slices of the word. -/
theorem unpackExpandsEachNibble : Obligations.UnpackExpandsEachNibble := by
  intro c s
  exact ⟨unpackColor c, exec_unpack c s, expand1_toNat _, expand1_toNat _, expand1_toNat _, expand1_toNat _⟩

end Sys2Proof
end

section
/-!
PROOFS. ENCODE of 41_pixel_update_framer.md: the frame of six fields (R60, R120).
-/
namespace Sys2Proof

open Machine

/-- Settles O19: the frame is the sum of its fields at their positions, its slices are the fields it was made of, and a
call's operands are first reduced to their widths. -/
theorem encodeConcatenatesFields : Obligations.EncodeConcatenatesFields := by
  refine ⟨fun o x y u v c s => ?_, fun o x y u v c s => ?_⟩
  · obtain ⟨hop, hrx, hry, hlx, hly, hcol⟩ := PixelUpdate.mk.inj (fieldsOf_frameOf ⟨o, x, y, u, v, c⟩)
    exact ⟨frameOf ⟨o, x, y, u, v, c⟩, _, exec_encode o x y u v c s, rfl, frameOf_toNat _,
      hop, hrx, hry, hlx, hly, hcol, fun _ _ => rfl⟩
  · refine ⟨.encode (.ofNat 8 o) (.ofNat 10 x) (.ofNat 10 y) (.ofNat 10 u) (.ofNat 10 v) (.ofNat 16 c), _, rfl,
      exec_encode _ _ _ _ _ _ s, ?_⟩
    simp only [frameOf_toNat, BitVec.toNat_ofNat]

end Sys2Proof
end

section
/-!
PROOFS. The invariant of R26 and R27: every operation completes from it and keeps it, so every step does whose input
its ports can carry.
-/
namespace Sys2Proof.Machine

/-! ## The receive events (R128, R130) -/

/-- An operation is combinational, a byte or an end. -/
theorem combinational_or_receiveEvent (i : Instr) : isReceiveEvent i = false ∨ (∃ b, i = .rxByte b) ∨ i = .rxEnd := by
  cases i with
  | rxByte b => exact .inr (.inl ⟨b, rfl⟩)
  | rxEnd => exact .inr (.inr rfl)
  | _ => exact .inl rfl

/-- RX_BYTE completes from every state, writing at most one byte, the counter and the strobes (R128). -/
theorem exec_rxByte (b : Byte) (s : State) :
    exec (.rxByte b) s = .next { s with
      mem := if s.rxCnt.val < 8 then Memory.write s.mem s.rxCnt.val b else s.mem
      rxCnt := rxCntNext s.rxCnt
      rxOut := .noResponse } :=
  execRxByte_eq b s

/-- Eight bytes that each hold a value are a list of eight bytes. -/
theorem Memory.exists_bytes_of_written (m : Memory) (h : ∀ k, k < 8 → (m.read k).isSome = true) :
    ∃ bs : List Byte, bs.length = 8 ∧ ∀ k, k < 8 → m.read k = bs[k]? := by
  refine ⟨(List.range 8).map fun k => (m.read k).getD 0, by simp, fun k hk => ?_⟩
  obtain ⟨b, hb⟩ := Option.isSome_iff_exists.1 (h k hk)
  simp [hk, hb]

/-! ## Every operation keeps the invariant -/

/-- A state with the same bytes and no higher count meets the invariant too. -/
theorem State.Inv.of_le {s t : State} (h : State.Inv s) (hm : t.mem = s.mem) (hc : t.rxCnt.val ≤ s.rxCnt.val) :
    State.Inv t where
  wf := hm ▸ h.wf
  inBuffer := hm ▸ h.inBuffer
  written k hk hk8 := hm ▸ h.written k (by omega) hk8

theorem State.Inv.beginStep {s : State} (h : State.Inv s) (rest : List StepInput) : State.Inv (s.beginStep rest) :=
  h.of_le rfl (le_refl _)

theorem State.inv_resetDeserialiser (s : State) : State.Inv s.resetDeserialiser where
  wf := rfl
  inBuffer := rfl
  written k hk := absurd hk (Nat.not_lt_zero k)

/-- RX_BYTE writes the byte that its count comes to cover. -/
theorem State.Inv.exec_rxByte {s : State} (h : State.Inv s) (b : Byte) :
    ∃ t, exec (.rxByte b) s = .next t ∧ State.Inv t := by
  refine ⟨_, Machine.exec_rxByte b s, ?_⟩
  by_cases hc : s.rxCnt.val < 8
  · simp only [hc, if_true]
    refine ⟨Memory.wf_write _ _ b h.wf, Memory.inBuffer_write _ _ b hc h.inBuffer, fun k hk hk8 => ?_⟩
    rw [rxCntNext_val, if_pos (by omega)] at hk
    rw [Memory.read_write]
    split
    · rfl
    · exact h.written k (by omega) hk8
  · simp only [hc, if_false]
    exact ⟨h.wf, h.inBuffer, fun k _ hk8 => h.written k (by omega) hk8⟩

/-- With eight bytes counted all eight are held, so the end event has its frame. -/
theorem State.Inv.exec_rxEnd {s : State} (h : State.Inv s) : ∃ t, exec .rxEnd s = .next t ∧ State.Inv t := by
  have hinv (r : Response) : State.Inv { s with rxOut := r, rxCnt := 0 } := h.of_le rfl (Nat.zero_le _)
  by_cases hc : s.rxCnt.val = 8
  · obtain ⟨bs, hl, hbs⟩ := Memory.exists_bytes_of_written s.mem fun k hk => h.written k (by omega) hk
    exact ⟨_, execRxEnd_of_eq s bs hl hc hbs, hinv _⟩
  · exact ⟨_, execRxEnd_of_ne s hc, hinv _⟩

/-- From the invariant every operation completes, and keeps it. -/
theorem State.Inv.exec {s : State} (h : State.Inv s) (i : Instr) : ∃ t, exec i s = .next t ∧ State.Inv t := by
  obtain hi | ⟨b, rfl⟩ | rfl := combinational_or_receiveEvent i
  · obtain ⟨q, p, u, e, d, hx⟩ := exec_combinational i hi s
    exact ⟨_, hx, h.of_le rfl (le_refl _)⟩
  · exact h.exec_rxByte b
  · exact h.exec_rxEnd

theorem State.Inv.execAll {s : State} (h : State.Inv s) (is : List Instr) :
    ∃ t, execAll is s = .next t ∧ State.Inv t := by
  induction is generalizing s with
  | nil => exact ⟨s, rfl, h⟩
  | cons i is ih =>
    obtain ⟨t, hx, ht⟩ := h.exec i
    rw [execAll_cons, hx, andThen_next]
    exact ih ht

/-! ## Every step keeps the invariant -/

/-- From the invariant an input is refused when the ports cannot carry it, and completes otherwise, keeping it. -/
theorem State.Inv.runInput_cases {s : State} (h : State.Inv s) (inp : StepInput) :
    (∃ e, runInput inp s = .refused e ∧ ¬ inp.presentable) ∨
    (∃ t, runInput inp s = .next t ∧ State.Inv t ∧ inp.presentable) := by
  obtain ⟨e, he, hp⟩ | ⟨is, hd, hc, hx⟩ := Machine.runInput_cases inp s
  · exact .inl ⟨e, he, hp⟩
  · have hall : ∃ t, runInput inp s = .next t ∧ State.Inv t := by
      rw [hx]
      split
      · exact s.inv_resetDeserialiser.execAll _
      · exact h.execAll _
    obtain ⟨t, ht, hinv⟩ := hall
    exact .inr ⟨t, ht, hinv, is, hd, hc⟩

/-- From the invariant a step either completes, on an input the ports can carry, or is refused. -/
theorem State.Inv.step_cases {s : State} (h : State.Inv s) :
    (∃ t, step s = .next t ∧ State.Inv t ∧ ∀ inp rest, s.stimulus = inp :: rest → inp.presentable) ∨
    (∃ e inp rest, step s = .refused e ∧ s.stimulus = inp :: rest ∧ ¬ inp.presentable) := by
  cases hs : s.stimulus with
  | nil => exact .inl ⟨_, step_nil s hs, h.beginStep [], fun _ _ he => by cases he⟩
  | cons inp rest =>
    rw [step_cons s inp rest hs]
    obtain ⟨e, he, hp⟩ | ⟨t, ht, hinv, hp⟩ := (h.beginStep rest).runInput_cases inp
    · exact .inr ⟨e, inp, rest, he, rfl, hp⟩
    · exact .inl ⟨t, ht, hinv, fun _ _ heq => by cases heq; exact hp⟩

end Sys2Proof.Machine

namespace Sys2Proof

open Machine

/-- Settles O5: a step that completes from the invariant completes in it. -/
theorem stepKeepsInvariant : Obligations.StepKeepsInvariant := by
  intro s t h ht
  obtain ⟨t', ht', hinv, -⟩ | ⟨e, -, -, he, -⟩ := h.step_cases
  · rw [ht, Host.Outcome.next.injEq] at ht'
    exact ht' ▸ hinv
  · rw [ht] at he
    cases he

/-- Settles O6: a step from the invariant completes or is refused, and it is refused on inputs the ports cannot carry
alone. -/
theorem stepCompletesOnEveryPresentableInput : Obligations.StepCompletesOnEveryPresentableInput := by
  intro s h
  obtain ⟨t, ht, -, hp⟩ | ⟨e, inp, rest, he, hs, hp⟩ := h.step_cases
  · refine ⟨fun f => ?_, iff_of_true ⟨t, ht⟩ hp⟩
    simp [ht]
  · refine ⟨fun f => ?_, iff_of_false ?_ fun hall => hp (hall inp rest hs)⟩ <;> simp [he]

/-- Settles O2: the reset state is an empty buffer and a count of 0. -/
theorem resetSatisfiesInvariant : Obligations.ResetSatisfiesInvariant :=
  State.inv_resetDeserialiser State.reset

end Sys2Proof
end

section
/-!
PROOFS. Encoder and decoder of the operation words (R73) undo each other.
-/
namespace Sys2Proof

/-! ## Words of two and of five bytes (R40) -/

theorem beBytes_two_append (b0 b1 : Byte) : beBytes 2 (b0 ++ b1).toNat = [b0, b1] := by
  have hcat : (b0 ++ b1).toNat = beConcat [b0, b1] := by
    rw [toNat_concat]
    simp [beConcat]
  rw [hcat]
  exact beBytes_beConcat [b0, b1]

theorem beBytes_five_append (b0 b1 b2 b3 b4 : Byte) :
    beBytes 5 (b0 ++ b1 ++ b2 ++ b3 ++ b4).toNat = [b0, b1, b2, b3, b4] := by
  have hcat : (b0 ++ b1 ++ b2 ++ b3 ++ b4).toNat = beConcat [b0, b1, b2, b3, b4] := by
    simp only [toNat_concat, beConcat, List.length_cons, List.length_nil]
    omega
  rw [hcat]
  exact beBytes_beConcat [b0, b1, b2, b3, b4]

/-- The bytes of a 16-bit word concatenate to it. -/
theorem exists_beBytes_two (c : BitVec 16) : ∃ b0 b1 : Byte, beBytes 2 c.toNat = [b0, b1] ∧ b0 ++ b1 = c := by
  refine ⟨c.extractLsb' 8 8, c.extractLsb' 0 8, ?_, BitVec.extractLsb'_append_extractLsb'⟩
  conv_lhs => rw [← BitVec.extractLsb'_append_extractLsb' (w := 8) (len := 8) (x := c)]
  exact beBytes_two_append _ _

/-- The bytes of a 40-bit word concatenate to it. -/
theorem exists_beBytes_five (w : BitVec 40) :
    ∃ b0 b1 b2 b3 b4 : Byte, beBytes 5 w.toNat = [b0, b1, b2, b3, b4] ∧ b0 ++ b1 ++ b2 ++ b3 ++ b4 = w := by
  have hcat : w.extractLsb' 32 8 ++ w.extractLsb' 24 8 ++ w.extractLsb' 16 8 ++ w.extractLsb' 8 8 ++
      w.extractLsb' 0 8 = w := by
    apply BitVec.eq_of_toNat_eq
    have hw := w.isLt
    simp only [toNat_concat, toNat_slice]
    omega
  refine ⟨_, _, _, _, _, ?_, hcat⟩
  conv_lhs => rw [← hcat]
  exact beBytes_five_append _ _ _ _ _

/-! ## The coordinates of SET_PIXEL8 -/

/-- The four coordinates are the slices of their concatenation. -/
theorem coords_slices (x y u v : Coord) :
    (x ++ y ++ u ++ v).extractLsb' 30 10 = x ∧ (x ++ y ++ u ++ v).extractLsb' 20 10 = y ∧
    (x ++ y ++ u ++ v).extractLsb' 10 10 = u ∧ (x ++ y ++ u ++ v).extractLsb' 0 10 = v := by
  have hx := x.isLt; have hy := y.isLt; have hu := u.isLt; have hv := v.isLt
  refine ⟨?_, ?_, ?_, ?_⟩ <;> apply BitVec.eq_of_toNat_eq <;> simp only [toNat_slice, toNat_concat] <;> omega

/-- A 40-bit word is the concatenation of its four coordinate slices. -/
theorem append_coords_slices (w : BitVec 40) :
    w.extractLsb' 30 10 ++ w.extractLsb' 20 10 ++ w.extractLsb' 10 10 ++ w.extractLsb' 0 10 = w := by
  apply BitVec.eq_of_toNat_eq
  have hw := w.isLt
  simp only [toNat_concat, toNat_slice]
  omega

/-! ## Frames -/

theorem exists_frame_of_eight {bytes : List Byte} (hl : bytes.length = 8) : ∃ p, frameBytes (frameOf p) = bytes :=
  ⟨fieldsOf (frameOfBytes bytes), by rw [frameOf_fieldsOf, frameBytes_frameOfBytes bytes hl]⟩

theorem messageOf_frameOf_setPixel (dir : Direction) (x y u v : Coord) (c : Color16) :
    messageOf dir (frameOf ⟨Config.opcSetPixel, x, y, u, v, c⟩) = .setPixel dir x y u v c :=
  (messageOf_eq_setPixel_iff dir _ x y u v c).2 (fieldsOf_frameOf _)

theorem messageOf_frameOf_undefined (dir : Direction) (p : PixelUpdate) (h : p.opcode ≠ Config.opcSetPixel) :
    messageOf dir (frameOf p) =
      .msgUndefined dir p.opcode p.regionX p.regionY p.locationX p.locationY p.color := by
  simp [messageOf, h]

/-- The message of a frame is well-formed and is encoded as that frame. -/
theorem messageOf_frameOf_encodes (dir : Direction) (p : PixelUpdate) :
    (messageOf dir (frameOf p)).wellFormed = true ∧
    encode (messageOf dir (frameOf p)) = .word (.frame dir) (frameBytes (frameOf p)) := by
  by_cases ho : p.opcode = Config.opcSetPixel
  · obtain ⟨o, x, y, u, v, c⟩ := p
    obtain rfl : o = Config.opcSetPixel := ho
    rw [messageOf_frameOf_setPixel]
    exact ⟨rfl, rfl⟩
  · rw [messageOf_frameOf_undefined dir p ho]
    exact ⟨by simpa [Instr.wellFormed] using ho, rfl⟩

/-- Only eight bytes are a frame message (R73). -/
theorem length_of_decode_frame {dir : Direction} {bytes : List Byte} {i : Instr}
    (h : decode (.word (.frame dir) bytes) = .ok i) : bytes.length = 8 := by
  by_contra hl
  simp [decode, decodeWord, Config.frameBytes, hl] at h

/-- Only eight bytes are an ENCODE operand word (R73). -/
theorem length_of_decode_encode {bytes : List Byte} {i : Instr} (h : decode (.word .encode bytes) = .ok i) :
    bytes.length = 8 := by
  by_contra hl
  simp [decode, decodeWord, Config.frameBytes, hl] at h

theorem decode_encode_frameBytes (p : PixelUpdate) :
    decode (.word .encode (frameBytes (frameOf p))) =
      .ok (.encode p.opcode p.regionX p.regionY p.locationX p.locationY p.color) := by
  simp [decode, decodeWord, Config.frameBytes]

/-- Settles O36: per operation, the decoder takes apart what the encoder put together. -/
theorem decodeOfEncodeIsIdentity : Obligations.DecodeOfEncodeIsIdentity := by
  intro i hwf
  cases i with
  | setPixel dir x y u v c => exact (decode_frameBytes dir _).trans (by rw [messageOf_frameOf_setPixel])
  | msgUndefined dir o x y u v c =>
    have ho : o ≠ Config.opcSetPixel := by simpa [Instr.wellFormed] using hwf
    exact (decode_frameBytes dir _).trans (by rw [messageOf_frameOf_undefined dir _ ho])
  | encode o x y u v c => exact decode_encode_frameBytes ⟨o, x, y, u, v, c⟩
  | pack r g b a =>
    obtain ⟨b0, b1, hb, hcat⟩ := exists_beBytes_two (color16Of ⟨r, g, b, a⟩)
    simp [encode, selectorOf, encodeBytes, decode, decodeWord, hb, hcat]
  | unpack c =>
    obtain ⟨b0, b1, hb, hcat⟩ := exists_beBytes_two c
    simp [encode, selectorOf, encodeBytes, decode, decodeWord, hb, hcat]
  | setPixel8 x y u v r g b a =>
    obtain ⟨b0, b1, b2, b3, b4, hb, hcat⟩ := exists_beBytes_five (x ++ y ++ u ++ v)
    obtain ⟨hx, hy, hu, hv⟩ := coords_slices x y u v
    simp only [encode, selectorOf, encodeBytes, decode, decodeWord, hb, hcat, List.cons_append, List.nil_append,
      hx, hy, hu, hv]
  | quant r g b a => rfl
  | pack8 r g b a => rfl
  | decode bs => rfl
  | rxByte b => rfl
  | rxEnd => rfl

/-- Settles O37: per selector, the encoder puts together what the decoder took apart. -/
theorem encodeOfDecodeIsIdentity : Obligations.EncodeOfDecodeIsIdentity := by
  intro sel bytes i h
  cases sel with
  | frame dir =>
    obtain ⟨p, rfl⟩ := exists_frame_of_eight (length_of_decode_frame h)
    rw [decode_frameBytes] at h
    cases h
    exact messageOf_frameOf_encodes dir p
  | encode =>
    obtain ⟨p, rfl⟩ := exists_frame_of_eight (length_of_decode_encode h)
    rw [decode_encode_frameBytes] at h
    cases h
    exact ⟨rfl, rfl⟩
  | pack =>
    simp only [decode, decodeWord] at h
    split at h
    · next b0 b1 =>
      cases h
      refine ⟨rfl, congrArg (Drive.word .pack) ?_⟩
      rw [encodeBytes]
      exact (congrArg (fun c => beBytes 2 c.toNat) (color16Of_nibblesOf (b0 ++ b1))).trans (beBytes_two_append b0 b1)
    · cases h
  | unpack =>
    simp only [decode, decodeWord] at h
    split at h
    · next b0 b1 =>
      cases h
      exact ⟨rfl, congrArg (Drive.word .unpack) (beBytes_two_append b0 b1)⟩
    · cases h
  | setPixel8 =>
    simp only [decode, decodeWord] at h
    split at h
    · next b0 b1 b2 b3 b4 r g b a =>
      cases h
      refine ⟨rfl, congrArg (Drive.word .setPixel8) ?_⟩
      rw [encodeBytes, append_coords_slices, beBytes_five_append]
      rfl
    · cases h
  | decode =>
    cases h
    exact ⟨rfl, rfl⟩
  | quant | pack8 | rxByte | rxEnd =>
    simp only [decode, decodeWord] at h
    split at h <;> cases h
    exact ⟨rfl, rfl⟩

end Sys2Proof
end

section
/-!
PROOFS. The steps of a script (R79): what each of its inputs evaluates, and the runs made of them.
-/
namespace Sys2Proof.Machine

/-! ## One operation presented (R12) -/

/-- No operation drives a port group twice. -/
theorem portConflict_singleton (i : Instr) : portConflict [i] = false := by
  cases i with
  | setPixel dir => cases dir <;> rfl
  | msgUndefined dir => cases dir <;> rfl
  | _ => rfl

theorem endLast_singleton (i : Instr) : endLast [i] = [i] := by
  by_cases h : i = .rxEnd <;> simp [endLast, h]

/-- A step that presents one operation, without `rst`, evaluates it (R12). -/
theorem step_single {s : State} {d : Drive} {i : Instr} {rest : List StepInput} (h : s.stimulus = ⟨false, [d]⟩ :: rest)
    (hd : decode d = .ok i) : step s = exec i (s.beginStep rest) := by
  rw [step_cons s _ rest h]
  simp only [runInput, decodeAll, hd, portConflict_singleton, endLast_singleton]
  exact execAll_singleton i _

/-! ## The inputs of a script (R79) -/

theorem step_idleStep {s : State} {rest : List StepInput} (h : s.stimulus = idleStep :: rest) :
    step s = .next (s.beginStep rest) :=
  step_cons s _ rest h

theorem step_byteStep {s : State} {b : Byte} {rest : List StepInput} (h : s.stimulus = byteStep b :: rest) :
    step s = exec (.rxByte b) (s.beginStep rest) :=
  step_single h rfl

theorem step_endStep {s : State} {rest : List StepInput} (h : s.stimulus = endStep :: rest) :
    step s = exec .rxEnd (s.beginStep rest) :=
  step_single h rfl

/-- A byte and an end in one step are the byte, then the end, whichever is listed first (R131). -/
theorem step_byte_and_end {s : State} {b : Byte} {rest : List StepInput}
    (h : s.stimulus = byteEndStep b :: rest ∨ s.stimulus = ⟨false, [encode .rxEnd, encode (.rxByte b)]⟩ :: rest) :
    step s = andThen (exec (.rxByte b) (s.beginStep rest)) (exec .rxEnd) := by
  have hrun : step s = execAll [.rxByte b, .rxEnd] (s.beginStep rest) := by
    rcases h with h | h <;> exact step_cons s _ rest h
  rw [hrun, execAll_cons]
  congr 1
  funext t
  exact execAll_singleton .rxEnd t

theorem step_resetStep {s : State} {rest : List StepInput} (h : s.stimulus = resetStep :: rest) :
    step s = .next (s.beginStep rest).resetDeserialiser :=
  step_cons s _ rest h

/-! ## Runs and their responses -/

/-- So many steps lead from one state to another and answer, on the receive port, these responses in order (R50). -/
structure Runs (n : Nat) (s t : State) (rs : List Response) : Prop where
  reaches : stepTimes n s = .next t
  answers : responsesOf n s = rs

theorem Runs.none (s : State) : Runs 0 s s [] := ⟨rfl, rfl⟩

theorem Runs.silent {n : Nat} {s t u : State} {rs : List Response} (h : step s = .next t) (hr : t.rxOut = .noResponse)
    (hrun : Runs n t u rs) : Runs (n + 1) s u rs where
  reaches := by rw [stepTimes, h, andThen_next, hrun.reaches]
  answers := by simp [responsesOf, h, hr, hrun.answers]

theorem Runs.answer {n : Nat} {s t u : State} {rs : List Response} (h : step s = .next t) (hr : t.rxOut ≠ .noResponse)
    (hrun : Runs n t u rs) : Runs (n + 1) s u (t.rxOut :: rs) where
  reaches := by rw [stepTimes, h, andThen_next, hrun.reaches]
  answers := by simp [responsesOf, h, hr, hrun.answers]

/-- A run after a run is a run, and its responses are those of the two in order. -/
theorem Runs.trans {m n : Nat} {s t u : State} {rs rs' : List Response} (h : Runs m s t rs) (h' : Runs n t u rs') :
    Runs (m + n) s u (rs ++ rs') := by
  induction m generalizing s rs with
  | zero =>
    obtain ⟨hreach, rfl⟩ := h
    cases hreach
    simpa [responsesOf] using h'
  | succ m ih =>
    obtain ⟨hreach, rfl⟩ := h
    obtain ⟨v, hv, hreach⟩ := (andThen_eq_next_iff _ _ _).1 hreach
    have hrun := ih ⟨hreach, rfl⟩
    rw [Nat.succ_add]
    by_cases hr : v.rxOut = .noResponse
    · simpa [responsesOf, hv, hr] using Runs.silent hv hr hrun
    · simpa [responsesOf, hv, hr] using Runs.answer hv hr hrun

end Sys2Proof.Machine

namespace Sys2Proof

open Machine

/-- Settles O3: an input of one drive is the operation that drive decodes to. -/
theorem stepRunsDecodedOperation : Obligations.StepRunsDecodedOperation := by
  intro s d i rest hs hd
  exact ⟨step_single hs hd, rfl⟩

/-- Settles O42: an idle step, and a step with nothing left to present, do no more than begin. -/
theorem idleChangesNothing : Obligations.IdleChangesNothing := by
  intro s rest h
  have hstep : step s = .next (s.beginStep rest) := by
    obtain h | ⟨h, rfl⟩ := h
    · exact step_idleStep h
    · exact step_nil s h
  exact ⟨_, hstep, rfl, rfl, rfl, rfl, rfl⟩

end Sys2Proof
end

section
/-!
PROOFS. The deserialiser receives a frame: the bytes it has taken so far, byte by byte (R128), up to the response of the
end event (R130, R135), frame after frame (R50).
-/
namespace Sys2Proof.Machine

/-! ## RX_BYTE and RX_END, one by one -/

/-- From 8 on the counter saturates (R27). -/
theorem rxCntNext_of_le {n : Fin 10} (h : 8 ≤ n.val) : rxCntNext n = 9 := by
  revert n
  decide

/-- RX_END stores nothing, clears the counter and answers (R130). -/
theorem exec_rxEnd_eq_next {s t : State} (h : exec .rxEnd s = .next t) :
    ∃ r, r ≠ .noResponse ∧ t = { s with rxOut := r, rxCnt := 0 } := by
  obtain ⟨r, hr, hx⟩ | ⟨-, f, -, hx⟩ := execRxEnd_cases s
  · exact ⟨r, hr, Host.Outcome.next.inj (h.symm.trans hx)⟩
  · cases h.symm.trans hx

/-- The pixel and the colour of an answered frame are its slices (R125). -/
theorem decFields_spec (f : Frame64) :
    (decFields f).pixel = ⟨f.extractLsb' 56 8, f.extractLsb' 46 10, f.extractLsb' 36 10, f.extractLsb' 26 10,
      f.extractLsb' 16 10, f.extractLsb' 0 16⟩ ∧
    (decFields f).rgba.r8.toNat = 17 * (f.extractLsb' 12 4).toNat ∧
    (decFields f).rgba.g8.toNat = 17 * (f.extractLsb' 8 4).toNat ∧
    (decFields f).rgba.b8.toNat = 17 * (f.extractLsb' 4 4).toNat ∧
    (decFields f).rgba.a8.toNat = 17 * (f.extractLsb' 0 4).toNat := by
  refine ⟨rfl, ?_, ?_, ?_, ?_⟩ <;>
    simp only [decFields, unpackColor, nibblesOf, fieldsOf, expand1_toNat, toNat_slice] <;> omega

theorem decodeFrame_eq_update_iff (bs : List Byte) : (∃ u, decodeFrame bs = .update u) ↔ bs.length = 8 := by
  constructor
  · rintro ⟨u, hu⟩
    by_contra hl
    rw [decodeFrame_of_ne bs hl] at hu
    cases hu
  · exact fun hl => ⟨_, decodeFrame_of_eight bs hl⟩

/-! ## The bytes taken so far -/

/-- The bytes of the current frame: all of them are counted, up to saturation (R27), and the first eight are held (R26,
R128). -/
structure State.Received (s : State) (bs : List Byte) : Prop where
  counted : s.rxCnt.val = min bs.length 9
  held : ∀ k, k < 8 → k < bs.length → s.mem.read k = bs[k]?

theorem State.received_nil {s : State} (h : s.rxCnt = 0) : s.Received [] where
  counted := by simp [h]
  held k _ hk := absurd hk (Nat.not_lt_zero k)

theorem State.Received.beginStep {s : State} {bs : List Byte} (h : s.Received bs) (rest : List StepInput) :
    (s.beginStep rest).Received bs :=
  ⟨h.counted, h.held⟩

/-- RX_BYTE appends its byte to the frame, and answers nothing. -/
theorem State.Received.exec_rxByte {s : State} {bs : List Byte} (h : s.Received bs) (b : Byte) :
    ∃ t, exec (.rxByte b) s = .next t ∧ t.Received (bs ++ [b]) ∧ t.rxOut = .noResponse ∧ t.stimulus = s.stimulus := by
  obtain ⟨hcount, hheld⟩ := h
  refine ⟨_, Machine.exec_rxByte b s, ⟨?_, fun k hk8 hk => ?_⟩, rfl, rfl⟩
  · rw [rxCntNext_val, List.length_append, List.length_singleton]
    split <;> omega
  · rw [List.length_append, List.length_singleton] at hk
    by_cases hlast : k = bs.length
    · subst hlast
      have hc : s.rxCnt.val = bs.length := by omega
      simp [hc, hk8]
    · have hlt : k < bs.length := by omega
      have hread : s.mem.read k = (bs ++ [b])[k]? := by rw [List.getElem?_append_left hlt, hheld k hk8 hlt]
      by_cases hc : s.rxCnt.val < 8
      · simpa [hc, Memory.read_write_other s.mem b (show k ≠ s.rxCnt.val by omega)] using hread
      · simpa [hc] using hread

/-- RX_END answers what DECODE answers for the bytes of the frame (R135). -/
theorem State.Received.exec_rxEnd {s : State} {bs : List Byte} (h : s.Received bs) :
    exec .rxEnd s = .next { s with rxOut := decodeFrame bs, rxCnt := 0 } := by
  obtain ⟨hcount, hheld⟩ := h
  by_cases hl : bs.length = 8
  · rw [decodeFrame_of_eight bs hl]
    exact execRxEnd_of_eq s bs hl (by omega) fun k hk => hheld k hk (by omega)
  · rw [decodeFrame_of_ne bs hl]
    exact execRxEnd_of_ne s (by omega)

/-! ## Frames delivered -/

/-- Delivering the rest of a frame answers once, in the end step, what DECODE answers for the whole of it. -/
theorem Delivers.runs {bs : List Byte} {inps : List StepInput} (h : Delivers bs inps) {s : State} {pre : List Byte}
    {rest : List StepInput} (hs : s.Received pre) (hst : s.stimulus = inps ++ rest) :
    ∃ t, Runs inps.length s t [t.rxOut] ∧ t.rxOut = decodeFrame (pre ++ bs) ∧ t.rxCnt = 0 ∧ t.stimulus = rest := by
  induction h generalizing s pre with
  | finish =>
    have hstep := (step_endStep hst).trans (hs.beginStep rest).exec_rxEnd
    rw [List.append_nil]
    exact ⟨_, Runs.answer hstep (decodeFrame_ne_noResponse _) (Runs.none _), rfl, rfl, rfl⟩
  | finishWith b =>
    obtain ⟨t, ht, hrec, -, hrest⟩ := (hs.beginStep rest).exec_rxByte b
    have hstep : step s = .next { t with rxOut := decodeFrame (pre ++ [b]), rxCnt := 0 } := by
      rw [step_byte_and_end (rest := rest) (.inl hst), ht, andThen_next, hrec.exec_rxEnd]
    exact ⟨_, Runs.answer hstep (decodeFrame_ne_noResponse _) (Runs.none _), rfl, rfl, hrest⟩
  | wait _ ih =>
    obtain ⟨t, hrun, hout, hcnt, hrest⟩ := ih (hs.beginStep _) rfl
    exact ⟨t, Runs.silent (step_idleStep hst) rfl hrun, hout, hcnt, hrest⟩
  | byte b _ ih =>
    obtain ⟨v, hv, hrec, hsilent, hv'⟩ := (hs.beginStep _).exec_rxByte b
    obtain ⟨t, hrun, hout, hcnt, hrest⟩ := ih hrec hv'
    rw [List.append_assoc] at hout
    exact ⟨t, Runs.silent ((step_byteStep hst).trans hv) hsilent hrun, hout, hcnt, hrest⟩

/-- From a frame boundary, frames delivered one after the other are answered one after the other (R50). -/
theorem runs_frames {frames : List (List Byte × List StepInput)} {s : State} (hd : ∀ p ∈ frames, Delivers p.1 p.2)
    (hs : s.rxCnt = 0) (hst : s.stimulus = frames.flatMap (fun p => p.2)) :
    ∃ t, Runs s.stimulus.length s t (frames.map fun p => decodeFrame p.1) := by
  rw [hst]
  induction frames generalizing s with
  | nil => exact ⟨s, Runs.none s⟩
  | cons p frames ih =>
    obtain ⟨hp, hframes⟩ := List.forall_mem_cons.1 hd
    rw [List.flatMap_cons] at hst
    obtain ⟨t, hrun, hout, hcnt, hrest⟩ := hp.runs (State.received_nil hs) hst
    obtain ⟨u, hrun'⟩ := ih hframes hcnt hrest
    rw [List.flatMap_cons, List.length_append, List.map_cons]
    rw [List.nil_append] at hout
    exact ⟨u, hout ▸ hrun.trans hrun'⟩

/-- Bytes without an end are taken without a response, from every state. -/
theorem runs_bytes (bs : List Byte) {s : State} {rest : List StepInput} (hst : s.stimulus = bs.map byteStep ++ rest) :
    ∃ t, Runs bs.length s t [] ∧ t.stimulus = rest := by
  induction bs generalizing s with
  | nil => exact ⟨s, Runs.none s, hst⟩
  | cons b bs ih =>
    obtain ⟨v, hv, hsilent, hvst⟩ : ∃ v, step s = .next v ∧ v.rxOut = .noResponse ∧
        v.stimulus = bs.map byteStep ++ rest := ⟨_, (step_byteStep hst).trans (exec_rxByte b _), rfl, rfl⟩
    obtain ⟨t, hrun, hrest⟩ := ih hvst
    exact ⟨t, Runs.silent hv hsilent hrun, hrest⟩

end Sys2Proof.Machine

namespace Sys2Proof

open Machine

/-- Settles O47: delivered from a frame boundary, the frame is the bytes delivered. -/
theorem receivePortAgreesWithDecode : Obligations.ReceivePortAgreesWithDecode := by
  intro bs inps rest s hd hs hst
  obtain ⟨t, ⟨hreach, hresp⟩, hout, hcnt, hrest⟩ := hd.runs (State.received_nil hs) hst
  rw [List.nil_append] at hout
  exact ⟨t, _, hreach, hcnt, hrest, exec_decode bs s, hout, hout ▸ decodeFrame_ne_noResponse bs, hresp⟩

/-- Settles O48, by induction on the frames: each delivery ends at a frame boundary, where the next begins. -/
theorem responsesComeInFrameOrder : Obligations.ResponsesComeInFrameOrder := by
  intro frames s hd hs hst
  obtain ⟨t, hrun⟩ := runs_frames hd hs hst
  exact hrun.answers

/-- Settles O49: the end step answers what DECODE answers, which is FormatError off length 8 alone. -/
theorem formatErrorExactlyForWrongLengths : Obligations.FormatErrorExactlyForWrongLengths := by
  intro bs inps rest s hd hs hst
  obtain ⟨t, hrun, hout, -⟩ := hd.runs (State.received_nil hs) hst
  rw [List.nil_append] at hout
  refine ⟨t, hrun.reaches, ?_, ?_⟩
  · rw [t.updErr_eq_true_iff, hout, decodeFrame_eq_formatError_iff]
  · rw [t.updValid_eq_true_iff, hout, decodeFrame_eq_update_iff]

/-- Settles O44: the abandoned bytes and the reset are answered by nothing, and the reset leaves a frame boundary. -/
theorem resetAbandonsAPartialFrameSilently : Obligations.ResetAbandonsAPartialFrameSilently := by
  intro s abandoned bs inps rest hd hst
  obtain ⟨v, hbytes, hv⟩ := runs_bytes abandoned hst
  have hreset := hbytes.trans (Runs.silent (step_resetStep hv) rfl (Runs.none _))
  have hboundary : (v.beginStep (inps ++ rest)).resetDeserialiser.rxCnt = 0 := rfl
  obtain ⟨t, hrun, hout, -⟩ := hd.runs (State.received_nil hboundary) rfl
  rw [List.nil_append] at hout
  exact ⟨hreset.answers, hout ▸ (hreset.trans hrun).answers⟩

/-- Settles O38: RX_BYTE writes at index `rx_cnt` below 8 and nowhere from 8 on. -/
theorem rxByteStoresOrDiscards : Obligations.RxByteStoresOrDiscards := by
  intro b s
  have hx := exec_rxByte b s
  refine ⟨fun h => ⟨_, hx, rfl, ?_, ?_, fun a ha => ?_, rfl, rfl⟩, fun h => ⟨_, hx, ?_, rfl, rfl⟩⟩
  · rw [rxCntNext_val, if_pos (by omega)]
  · simp [h]
  · simp [h, Memory.read_write_other s.mem b ha]
  · simp [rxCntNext_of_le h, Nat.not_lt.2 h]

/-- Settles O39: eight bytes held are the frame they concatenate to, and RX_END answers its fields. -/
theorem rxEndAnswersUpdateOrFormatError : Obligations.RxEndAnswersUpdateOrFormatError := by
  refine ⟨fun b0 b1 b2 b3 b4 b5 b6 b7 f s hc hheld hf => ?_, fun s hc => ?_⟩
  · rw [← frameOfBytes_eight] at hf
    subst hf
    have hx := execRxEnd_of_eq s [b0, b1, b2, b3, b4, b5, b6, b7] rfl (congrArg Fin.val hc) hheld
    exact ⟨_, _, hx, rfl, rfl, rfl, rfl, decFields_spec _⟩
  · exact ⟨_, execRxEnd_of_ne s fun h => hc (Fin.ext h), rfl, rfl, rfl⟩

/-- Settles O40: the bytes below the first unwritten one are read, and the read of that one faults. -/
theorem rxEndFaultsOnUnwrittenByte : Obligations.RxEndFaultsOnUnwrittenByte := by
  intro s k hc hk hnone hbelow
  have hcount : s.rxCnt.val = 8 := congrArg Fin.val hc
  have hbytes : s.memReadBytes 0 8 = .error (.unwrittenByte k) := by
    refine s.memReadBytes_error 0 8 k _ hk (fun j hj => ?_) ?_
    · obtain ⟨b, hb⟩ := Option.isSome_iff_exists.1 (hbelow j hj)
      exact ⟨b, (s.readByte_eq_ok_iff _ b).2 ⟨by omega, by omega, by simpa using hb⟩⟩
    · rw [Nat.zero_add]
      exact s.readByte_unwritten k hk hnone
  simp [exec, execRxEnd, State.memReadFrame, Config.frameBytes, hcount, hbytes]

/-- Settles O41: the byte is counted before the end is evaluated. -/
theorem byteEndIsByteThenEnd : Obligations.ByteEndIsByteThenEnd := by
  refine ⟨fun s b rest h => ⟨step_byte_and_end h, fun hc => ?_⟩, fun s b0 b1 b2 b3 b4 b5 b6 b7 rest h hc hheld => ?_⟩
  · obtain ⟨v, hv, hcnt⟩ : ∃ v, exec (.rxByte b) (s.beginStep rest) = .next v ∧ v.rxCnt = rxCntNext s.rxCnt :=
      ⟨_, exec_rxByte b _, rfl⟩
    have hne : v.rxCnt.val ≠ 8 := by
      rw [hcnt, rxCntNext_val]
      split <;> omega
    refine ⟨{ v with rxOut := .formatError, rxCnt := 0 }, ?_, rfl, rfl⟩
    rw [step_byte_and_end h, hv, andThen_next]
    exact execRxEnd_of_ne v hne
  · have hrec : s.Received [b0, b1, b2, b3, b4, b5, b6] := ⟨by simp [hc], fun k _ hk => hheld k hk⟩
    obtain ⟨t, ht, hrec', -⟩ := (hrec.beginStep rest).exec_rxByte b7
    refine ⟨{ t with rxOut := decodeFrame [b0, b1, b2, b3, b4, b5, b6, b7], rxCnt := 0 }, ?_, rfl, rfl⟩
    rw [step_byte_and_end (.inl h), ht, andThen_next]
    exact hrec'.exec_rxEnd

/-- Settles O46: each event's transition is the one of the operation it presents. -/
theorem counterTransitions : Obligations.CounterTransitions := by
  intro s rest hinv
  refine ⟨fun b h => ?_, fun h => ?_, fun h => ?_, fun h => ?_⟩
  · exact ⟨_, (step_byteStep h).trans (exec_rxByte b _), rxCntNext_val s.rxCnt⟩
  · obtain ⟨t, ht, -⟩ := (hinv.beginStep rest).exec_rxEnd
    obtain ⟨r, -, rfl⟩ := exec_rxEnd_eq_next ht
    exact ⟨_, (step_endStep h).trans ht, rfl⟩
  · exact ⟨_, step_idleStep h, rfl⟩
  · exact ⟨_, step_resetStep h, rfl⟩

/-- Settles O52: RX_BYTE writes at its store index alone. -/
theorem rxByteChangesOnlyItsByte : Obligations.RxByteChangesOnlyItsByte := by
  intro b s t h
  rw [exec_rxByte, Host.Outcome.next.injEq] at h
  subst h
  rw [State.rxStoreIndex_eq]
  refine ⟨fun a ha => ?_, fun k hk => ?_, rfl, rfl, rfl, rfl, rfl, rfl, rfl⟩
  · by_cases hc : s.rxCnt.val < 8
    · have hne : a ≠ s.rxCnt.val := by simpa [hc, eq_comm] using ha
      simp [hc, Memory.read_write_other s.mem b hne]
    · simp [hc]
  · by_cases hc : s.rxCnt.val < 8
    · obtain rfl : s.rxCnt.val = k := by simpa [hc] using hk
      simp [hc]
    · simp [hc] at hk

/-- Settles O53: RX_END writes the counter and its response alone. -/
theorem rxEndStoresNothing : Obligations.RxEndStoresNothing := by
  intro s t h
  obtain ⟨r, hr, rfl⟩ := exec_rxEnd_eq_next h
  exact ⟨fun _ => rfl, rfl, hr, rfl, rfl, rfl, rfl, rfl, rfl, rfl⟩

/-- Settles O1: no byte of the empty buffer is held, so a read of any faults by its index. -/
theorem resetLeavesEmptyDeserialiser : Obligations.ResetLeavesEmptyDeserialiser :=
  ⟨rfl, rfl, rfl, fun _ => rfl, fun k hk => State.reset.readByte_unwritten k hk rfl⟩

end Sys2Proof
end

section
/-!
PROOFS. Bytes left over from an earlier frame (R26, R134): the deserialiser reads those of the current frame alone.
-/
namespace Sys2Proof.Machine

/-! ## Reading depends on the count and the bytes below it -/

theorem State.readByte_congr {s t : State} (hc : t.rxCnt = s.rxCnt)
    (hm : ∀ k, k < s.rxCnt.val → k < 8 → t.mem.read k = s.mem.read k) (k : Nat) : t.readByte k = s.readByte k := by
  unfold State.readByte Config.frameBytes
  rw [hc]
  by_cases h8 : 8 ≤ k
  · simp only [h8, if_true]
  · by_cases hk : s.rxCnt.val ≤ k
    · simp only [hk, if_true]
    · rw [hm k (by omega) (by omega)]

theorem State.memReadBytes_congr {s t : State} (h : ∀ k, t.readByte k = s.readByte k) (k n : Nat) :
    t.memReadBytes k n = s.memReadBytes k n := by
  induction n generalizing k with
  | zero => rfl
  | succ n ih => simp only [State.memReadBytes, h k, ih (k + 1)]

theorem State.memReadFrame_congr {s t : State} (hc : t.rxCnt = s.rxCnt)
    (hm : ∀ k, k < s.rxCnt.val → k < 8 → t.mem.read k = s.mem.read k) : t.memReadFrame = s.memReadFrame := by
  unfold State.memReadFrame
  rw [State.memReadBytes_congr (State.readByte_congr hc hm)]

/-- RX_END answers or faults alike from two states of one count that hold the same bytes below it. -/
theorem exec_rxEnd_congr {s t : State} (hc : t.rxCnt = s.rxCnt)
    (hm : ∀ k, k < s.rxCnt.val → k < 8 → t.mem.read k = s.mem.read k) :
    (∃ r, exec .rxEnd s = .next { s with rxOut := r, rxCnt := 0 } ∧
      exec .rxEnd t = .next { t with rxOut := r, rxCnt := 0 }) ∨
    (∃ f, exec .rxEnd s = .fault f ∧ exec .rxEnd t = .fault f) := by
  simp only [exec, execRxEnd, State.memReadFrame_congr hc hm, hc]
  split
  · cases s.memReadFrame with
    | ok f => exact .inl ⟨.update (decFields f), rfl, rfl⟩
    | error e => exact .inr ⟨e, rfl, rfl⟩
  · exact .inl ⟨.formatError, rfl, rfl⟩

/-! ## Leftover bytes (R26, R134) -/

theorem State.SameButLeftover.refl (s : State) : State.SameButLeftover s s := ⟨rfl, fun _ _ _ => rfl⟩

theorem State.SameButLeftover.rxCnt {s t : State} (h : State.SameButLeftover s t) : t.rxCnt = s.rxCnt := by
  rw [h.rest]

theorem State.SameButLeftover.stimulus {s t : State} (h : State.SameButLeftover s t) : t.stimulus = s.stimulus := by
  rw [h.rest]

theorem State.SameButLeftover.beginStep {s t : State} (h : State.SameButLeftover s t) (rest : List StepInput) :
    State.SameButLeftover (s.beginStep rest) (t.beginStep rest) := by
  obtain ⟨hrest, hcur⟩ := h
  rw [hrest]
  exact ⟨rfl, hcur⟩

/-- A reset forgets the bytes, so it makes the two states equal (R190). -/
theorem State.SameButLeftover.resetDeserialiser {s t : State} (h : State.SameButLeftover s t) :
    t.resetDeserialiser = s.resetDeserialiser := by
  rw [h.rest]
  rfl

theorem sameOutcomeButLeftover_andThen {o p : Host.Outcome State Fault Refusal}
    {f : State → Host.Outcome State Fault Refusal} (h : sameOutcomeButLeftover o p)
    (hf : ∀ s t, State.SameButLeftover s t → sameOutcomeButLeftover (f s) (f t)) :
    sameOutcomeButLeftover (andThen o f) (andThen p f) := by
  cases o <;> cases p
  case next.next s t => exact hf s t h
  case fault.fault => exact h
  case refused.refused => exact h
  all_goals exact h.elim

/-- RX_BYTE writes the same byte at the same index of both buffers. -/
theorem State.SameButLeftover.exec_rxByte {s t : State} (h : State.SameButLeftover s t) (b : Byte) :
    sameOutcomeButLeftover (exec (.rxByte b) s) (exec (.rxByte b) t) := by
  obtain ⟨hrest, hcur⟩ := h
  generalize t.mem = m at hrest hcur
  subst hrest
  rw [Machine.exec_rxByte, Machine.exec_rxByte]
  refine ⟨rfl, fun k hk hk8 => ?_⟩
  rw [rxCntNext_val] at hk
  by_cases hc : s.rxCnt.val < 8
  · simp only [hc, if_true, Memory.read_write]
    split
    · rfl
    · exact hcur k (by split at hk <;> omega) hk8
  · simp only [hc, if_false]
    exact hcur k (by omega) hk8

/-- RX_END reads the current bytes alone, and leaves none current. -/
theorem State.SameButLeftover.exec_rxEnd {s t : State} (h : State.SameButLeftover s t) :
    sameOutcomeButLeftover (exec .rxEnd s) (exec .rxEnd t) := by
  obtain ⟨r, hs, ht⟩ | ⟨f, hs, ht⟩ := exec_rxEnd_congr h.rxCnt h.current
  · rw [hs, ht]
    exact ⟨by rw [h.rest], fun k hk => absurd hk (Nat.not_lt_zero k)⟩
  · rw [hs, ht]
    rfl

theorem State.SameButLeftover.exec {s t : State} (h : State.SameButLeftover s t) (i : Instr) :
    sameOutcomeButLeftover (exec i s) (exec i t) := by
  obtain hi | ⟨b, rfl⟩ | rfl := combinational_or_receiveEvent i
  · obtain ⟨q, p, u, e, d, hx⟩ := exec_combinational_writes i hi
    rw [hx s, hx t, h.rest]
    exact ⟨rfl, h.current⟩
  · exact h.exec_rxByte b
  · exact h.exec_rxEnd

theorem State.SameButLeftover.execAll (is : List Instr) {s t : State} (h : State.SameButLeftover s t) :
    sameOutcomeButLeftover (execAll is s) (execAll is t) := by
  induction is generalizing s t with
  | nil => exact h
  | cons i is ih => exact sameOutcomeButLeftover_andThen (h.exec i) fun _ _ => ih

theorem State.SameButLeftover.runInput {s t : State} (h : State.SameButLeftover s t) (inp : StepInput) :
    sameOutcomeButLeftover (runInput inp s) (runInput inp t) := by
  unfold Machine.runInput
  cases decodeAll inp.drives with
  | error e => rfl
  | ok is =>
    dsimp only
    split
    · rfl
    · split
      · rw [h.resetDeserialiser]
        exact (State.SameButLeftover.refl _).execAll _
      · exact h.execAll _

end Sys2Proof.Machine

namespace Sys2Proof

open Machine

/-- Settles O50: reading, writing and reset are alike on states that differ in leftover bytes. -/
theorem leftoverBytesAreNeverObservable : Obligations.LeftoverBytesAreNeverObservable := by
  intro s t h
  cases hs : s.stimulus with
  | nil =>
    rw [step_nil s hs, step_nil t (h.stimulus.trans hs)]
    exact h.beginStep []
  | cons inp rest =>
    rw [step_cons s inp rest hs, step_cons t inp rest (h.stimulus.trans hs)]
    exact (h.beginStep rest).runInput inp

end Sys2Proof
end

section
/-!
PROOFS. The operations of one step: which of them answer on the receive port (R22, R133), what reset leaves of them
(R190), and that those on different port groups do not interact (R49, R165).
-/
namespace Sys2Proof.Machine

/-! ## The order of evaluation (R131, R164) -/

theorem isReceiveEvent_of_mem_underReset {is : List Instr} {i : Instr} (h : i ∈ underReset is) :
    isReceiveEvent i = false := by
  simpa using (List.mem_filter.1 h).2

theorem rxEnd_not_mem_underReset (is : List Instr) : Instr.rxEnd ∉ underReset is := fun h => by
  cases isReceiveEvent_of_mem_underReset h

/-- Where no end event is presented, nothing is moved to the end. -/
theorem endLast_of_not_mem {is : List Instr} (h : Instr.rxEnd ∉ is) : endLast is = is := by
  have hne : ∀ i ∈ is, i ≠ .rxEnd := fun i hi he => h (he ▸ hi)
  unfold endLast
  rw [List.filter_eq_self.2 (by simpa using hne), List.filter_eq_nil_iff.2 (by simpa using hne), List.append_nil]

theorem hasRepeat_eq_false_iff (gs : List PortGroup) : hasRepeat gs = false ↔ gs.Nodup := by
  induction gs with
  | nil => simp [hasRepeat]
  | cons g gs ih => simp [hasRepeat, ih]

/-- Fewer operations drive no group twice either. -/
theorem portConflict_of_sublist {is js : List Instr} (h : js.Sublist is) (hp : portConflict is = false) :
    portConflict js = false := by
  rw [portConflict, hasRepeat_eq_false_iff] at hp ⊢
  exact hp.sublist (h.flatMap portGroups)

/-! ## Steps that complete -/

theorem execAll_keeps {P : State → Prop} {is : List Instr}
    (hP : ∀ i ∈ is, ∀ s t, P s → exec i s = .next t → P t) {s t : State} (hs : P s) (h : execAll is s = .next t) :
    P t := by
  induction is generalizing s with
  | nil =>
    cases h
    exact hs
  | cons i is ih =>
    obtain ⟨v, hv, hvt⟩ := (andThen_eq_next_iff _ _ _).1 h
    obtain ⟨hi, his⟩ := List.forall_mem_cons.1 hP
    exact ih his (hi s v hs hv) hvt

/-- A step that completes began only, or evaluated the operations of its input: without the receive events under reset,
the end event last otherwise. -/
theorem step_eq_next_cases {s t : State} (h : step s = .next t) :
    (s.stimulus = [] ∧ t = s.beginStep []) ∨
    ∃ inp rest is, s.stimulus = inp :: rest ∧ decodeAll inp.drives = .ok is ∧
      ((inp.rst = true ∧ execAll (underReset is) (s.beginStep rest).resetDeserialiser = .next t) ∨
       (inp.rst = false ∧ execAll (endLast is) (s.beginStep rest) = .next t)) := by
  cases hs : s.stimulus with
  | nil =>
    rw [step_nil s hs, Host.Outcome.next.injEq] at h
    exact .inl ⟨rfl, h.symm⟩
  | cons inp rest =>
    rw [step_cons s inp rest hs] at h
    obtain ⟨e, he, -⟩ | ⟨is, hd, -, hx⟩ := runInput_cases inp (s.beginStep rest)
    · rw [h] at he
      cases he
    · rw [h] at hx
      refine .inr ⟨inp, rest, is, rfl, hd, ?_⟩
      cases hrst : inp.rst with
      | true => exact .inl ⟨rfl, by simpa [hrst] using hx.symm⟩
      | false => exact .inr ⟨rfl, by simpa [hrst] using hx.symm⟩

/-! ## The strobes (R22, R133) -/

/-- Only the end event answers. -/
theorem exec_keeps_noResponse {i : Instr} (hi : i ≠ .rxEnd) {s t : State} (hs : s.rxOut = .noResponse)
    (h : exec i s = .next t) : t.rxOut = .noResponse := by
  obtain hr | ⟨b, rfl⟩ | rfl := combinational_or_receiveEvent i
  · obtain ⟨q, p, u, e, d, hx⟩ := exec_combinational i hr s
    rw [hx, Host.Outcome.next.injEq] at h
    rw [← h]
    exact hs
  · rw [exec_rxByte, Host.Outcome.next.injEq] at h
    rw [← h]
  · exact absurd rfl hi

theorem execAll_keeps_noResponse {is : List Instr} (his : Instr.rxEnd ∉ is) {s t : State}
    (hs : s.rxOut = .noResponse) (h : execAll is s = .next t) : t.rxOut = .noResponse :=
  execAll_keeps (P := fun s => s.rxOut = .noResponse)
    (fun _ hi _ _ => exec_keeps_noResponse fun he => his (he ▸ hi)) hs h

theorem exec_rxEnd_answers {s t : State} (h : exec .rxEnd s = .next t) : t.rxOut ≠ .noResponse := by
  obtain ⟨r, hr, rfl⟩ := exec_rxEnd_eq_next h
  exact hr

/-- The operations of a step answer exactly when an end event is among them. -/
theorem execAll_endLast_answers_iff {is : List Instr} {s t : State} (hs : s.rxOut = .noResponse)
    (h : execAll (endLast is) s = .next t) : t.rxOut ≠ .noResponse ↔ Instr.rxEnd ∈ is := by
  by_cases hend : Instr.rxEnd ∈ is
  · refine iff_of_true ?_ hend
    rw [endLast, execAll_append] at h
    obtain ⟨v, -, hvt⟩ := (andThen_eq_next_iff _ _ _).1 h
    have hne : is.filter (fun i => decide (i = .rxEnd)) ≠ [] := by
      simpa [List.filter_eq_nil_iff] using hend
    obtain ⟨j, js, hj⟩ := List.exists_cons_of_ne_nil hne
    have hall : ∀ i ∈ j :: js, i = .rxEnd := by
      rw [← hj]
      simp
    obtain ⟨rfl, hjs⟩ := List.forall_mem_cons.1 hall
    rw [hj, execAll_cons] at hvt
    obtain ⟨w, hw, hwt⟩ := (andThen_eq_next_iff _ _ _).1 hvt
    refine execAll_keeps (P := fun s => s.rxOut ≠ .noResponse) (fun i hi a b _ hab => ?_) (exec_rxEnd_answers hw) hwt
    rw [hjs i hi] at hab
    exact exec_rxEnd_answers hab
  · rw [endLast_of_not_mem hend] at h
    exact iff_of_false (not_not.2 (execAll_keeps_noResponse hend hs h)) hend

/-! ## Operations that are not receive events (R49, R165, R190) -/

/-- They neither read nor write the deserialiser. -/
theorem exec_combinational_any_deserialiser {i : Instr} (h : isReceiveEvent i = false) (s : State) :
    ∃ t, exec i s = .next t ∧ t.rxCnt = s.rxCnt ∧ t.mem = s.mem ∧ ∀ c m r,
      exec i { s with rxCnt := c, mem := m, rxOut := r } = .next { t with rxCnt := c, mem := m, rxOut := r } := by
  obtain ⟨q, p, u, e, d, hx⟩ := exec_combinational_writes i h
  exact ⟨_, hx s, rfl, rfl, fun _ _ _ => hx _⟩

theorem execAll_combinational_any_deserialiser {is : List Instr} (h : ∀ i ∈ is, isReceiveEvent i = false) (s : State)
    (c : Fin 10) (m : Memory) (r : Response) :
    ∃ t, execAll is s = .next t ∧
      execAll is { s with rxCnt := c, mem := m, rxOut := r } = .next { t with rxCnt := c, mem := m, rxOut := r } := by
  induction is generalizing s with
  | nil => exact ⟨s, rfl, rfl⟩
  | cons i is ih =>
    obtain ⟨hi, his⟩ := List.forall_mem_cons.1 h
    obtain ⟨v, hv, -, -, hany⟩ := exec_combinational_any_deserialiser hi s
    rw [execAll_cons, execAll_cons, hv, hany]
    exact ih his v

/-- Writes to groups that two operations do not share come out the same in either order. -/
theorem ite_group_comm {gs hs : List PortGroup} (h : ∀ g ∈ gs, g ∉ hs) (g : PortGroup) {α : Type} (a b c : α) :
    (if g ∈ gs then a else if g ∈ hs then b else c) = if g ∈ hs then b else if g ∈ gs then a else c := by
  by_cases hg : g ∈ gs
  · simp [hg, h g hg]
  · simp [hg]

theorem exec_comm_combinational {i j : Instr} (hi : isReceiveEvent i = false) (hj : isReceiveEvent j = false)
    (h : ∀ g ∈ portGroups i, g ∉ portGroups j) (s : State) :
    andThen (exec i s) (exec j) = andThen (exec j s) (exec i) := by
  obtain ⟨q, p, u, e, d, hx⟩ := exec_combinational_writes i hi
  obtain ⟨q', p', u', e', d', hy⟩ := exec_combinational_writes j hj
  simp only [hx, hy, andThen_next, ite_group_comm h]

/-- The receive events read and write the deserialiser alone. -/
theorem exec_comm_rxByte {i : Instr} (hi : isReceiveEvent i = false) (b : Byte) (s : State) :
    andThen (exec i s) (exec (.rxByte b)) = andThen (exec (.rxByte b) s) (exec i) := by
  obtain ⟨v, hv, hcnt, hmem, hany⟩ := exec_combinational_any_deserialiser hi s
  rw [hv, andThen_next, exec_rxByte, exec_rxByte, andThen_next, hany, hcnt, hmem]

theorem exec_comm_rxEnd {i : Instr} (hi : isReceiveEvent i = false) (s : State) :
    andThen (exec i s) (exec .rxEnd) = andThen (exec .rxEnd s) (exec i) := by
  obtain ⟨v, hv, hcnt, hmem, hany⟩ := exec_combinational_any_deserialiser hi s
  obtain ⟨r, hs, ht⟩ | ⟨f, hs, ht⟩ := exec_rxEnd_congr hcnt fun k _ _ => by rw [hmem]
  · rw [hv, hs, andThen_next, andThen_next, ht, hany, ← hmem]
  · rw [hv, hs, andThen_next, andThen_fault, ht]

/-- What survives reset of a step's drives decodes to what reset leaves of its operations. -/
theorem decodeAll_filter_survivesReset {ds : List Drive} {is : List Instr} (h : decodeAll ds = .ok is) :
    decodeAll (ds.filter Drive.survivesReset) = .ok (underReset is) := by
  induction ds generalizing is with
  | nil =>
    cases h
    rfl
  | cons d ds ih =>
    unfold decodeAll at h
    split at h
    · cases h
    · next i hi =>
      split at h
      · cases h
      · next is' his =>
        cases h
        have hsurv : Drive.survivesReset d = !isReceiveEvent i := by simp [Drive.survivesReset, hi]
        cases hr : isReceiveEvent i with
        | true => simpa [hsurv, underReset, hr] using ih his
        | false =>
          have htail := ih his
          unfold underReset at htail
          simp [hsurv, underReset, hr, decodeAll, hi, htail]

/-- The input without its receive events and without `rst` evaluates what reset leaves (R190). -/
theorem runInput_combinational {inp : StepInput} {is : List Instr} (hd : decodeAll inp.drives = .ok is)
    (hp : portConflict is = false) (s : State) : runInput inp.combinational s = execAll (underReset is) s := by
  have hd' := decodeAll_filter_survivesReset hd
  have hp' : portConflict (underReset is) = false := portConflict_of_sublist List.filter_sublist hp
  simp [runInput, StepInput.combinational, hd', hp', endLast_of_not_mem (rxEnd_not_mem_underReset is)]

theorem runInput_rst {inp : StepInput} {is : List Instr} (hrst : inp.rst = true) (hd : decodeAll inp.drives = .ok is)
    (hp : portConflict is = false) (s : State) :
    runInput inp s = execAll (underReset is) s.resetDeserialiser := by
  simp [runInput, hd, hp, hrst]

end Sys2Proof.Machine

namespace Sys2Proof

open Machine

/-- Settles O45: among the operations a step evaluates the end event alone answers, and a response sets one strobe. -/
theorem strobesMarkExactlyTheEndEvents : Obligations.StrobesMarkExactlyTheEndEvents := by
  intro s t h
  refine ⟨?_, t.strobes_exclusive⟩
  rw [t.strobe_iff_response]
  obtain ⟨hs, rfl⟩ | ⟨inp, rest, is, hs, hd, ⟨hrst, hx⟩ | ⟨hrst, hx⟩⟩ := step_eq_next_cases h
  · simp [hs]
  · have hsilent := execAll_keeps_noResponse (rxEnd_not_mem_underReset is) (State.resetDeserialiser_rxOut _) hx
    simp [hs, StepInput.endsFrame, hrst, hsilent]
  · rw [execAll_endLast_answers_iff (State.beginStep_rxOut s rest) hx]
    simp [hs, StepInput.endsFrame, hrst, hd]

/-- Settles O43: what reset leaves of a step are operations that neither read nor write the deserialiser. -/
theorem resetWinsOverReceiveEvents : Obligations.ResetWinsOverReceiveEvents := by
  intro s inp rest hs hrst ⟨is, hd, hp⟩
  obtain ⟨t', ht', ht⟩ := execAll_combinational_any_deserialiser
    (fun _ => isReceiveEvent_of_mem_underReset (is := is)) (s.beginStep rest) 0 [] .noResponse
  refine ⟨_, t', (step_cons s inp rest hs).trans ((runInput_rst hrst hd hp _).trans ht), ?_, rfl, rfl, rfl⟩
  rw [step_cons _ inp.combinational rest rfl, runInput_combinational hd hp]
  exact ht'

/-- Settles O51: what such an operation writes is on its own port groups and is the same from every state. -/
theorem combinationalOperationsTouchOnlyTheirPorts : Obligations.CombinationalOperationsTouchOnlyTheirPorts := by
  intro i s s' h
  obtain ⟨q, p, u, e, d, hx⟩ := exec_combinational_writes i h
  refine ⟨_, _, hx s, hx s', rfl, fun _ => rfl, rfl, rfl, rfl, rfl, rfl, ?_, ?_, ?_, ?_, ?_⟩ <;> split <;> rfl

/-- Settles O54: the other operation is combinational, on other ports, or a receive event, on none of the first's. -/
theorem portGroupsDoNotInteract : Obligations.PortGroupsDoNotInteract := by
  intro i j s hi hdisj
  obtain hj | ⟨b, rfl⟩ | rfl := combinational_or_receiveEvent j
  · exact exec_comm_combinational hi hj hdisj s
  · exact exec_comm_rxByte hi b s
  · exact exec_comm_rxEnd hi s

end Sys2Proof
end

section
/-!
PROOFS. QUANT of 40_color_quantizer.md: the nearest level (R91), its bins (R92), the laws of a quantiser (R93) and the
round trips with PACK and UNPACK (R99).
-/
namespace Sys2Proof.Machine

/-! ## The nearest level (R91, R92) -/

/-- A number is the level answered exactly when its multiple of 17 is within 8 of the channel. -/
theorem quant1_toNat_eq_iff (c : Byte) (k : Nat) :
    (quant1 c).toNat = k ↔ 17 * k ≤ c.toNat + 8 ∧ c.toNat ≤ 17 * k + 8 := by
  rw [quant1_toNat]
  omega

theorem quant1_eq_iff (c : Byte) (k : Nibble) :
    quant1 c = k ↔ 17 * k.toNat ≤ c.toNat + 8 ∧ c.toNat ≤ 17 * k.toNat + 8 := by
  rw [← BitVec.toNat_inj, quant1_toNat_eq_iff]

/-! ## The laws (R93) -/

theorem quantFloor_toNat (c : Byte) : (quantFloor c).toNat = c.toNat / 17 := by
  have hc := c.isLt
  simp only [quantFloor, BitVec.toNat_ofNat]
  omega

theorem quantShift_toNat (c : Byte) : (quantShift c).toNat = c.toNat / 16 := by
  have hc := c.isLt
  simp only [quantShift, BitVec.toNat_ofNat, Nat.shiftRight_eq_div_pow]
  omega

/-- A rounded quotient that answers `k` at `17 k` meets the laws. -/
theorem quantiserLaws_of_quotient {q : Byte → Nibble} {n d : Nat} (hq : ∀ c, (q c).toNat = (c.toNat + n) / d)
    (hk : ∀ k, k < 16 → (k * 17 + n) / d = k) : QuantiserLaws q where
  leftInverse k := by
    apply BitVec.eq_of_toNat_eq
    rw [hq, expand1_toNat]
    exact hk _ k.isLt
  monotone c e h := by
    rw [BitVec.le_def] at h ⊢
    rw [hq, hq]
    exact Nat.div_le_div_right (Nat.add_le_add_right h n)

theorem quant1_laws : QuantiserLaws quant1 := quantiserLaws_of_quotient quant1_toNat (by omega)

theorem quantFloor_laws : QuantiserLaws quantFloor := quantiserLaws_of_quotient (n := 0) quantFloor_toNat (by omega)

theorem quantShift_laws : QuantiserLaws quantShift := quantiserLaws_of_quotient (n := 0) quantShift_toNat (by omega)

theorem toNat_complement_byte (c : Byte) : (255 - c).toNat = 255 - c.toNat :=
  BitVec.toNat_sub_of_le (x := 255) (y := c) (Nat.le_of_lt_succ c.isLt)

theorem toNat_complement_nibble (k : Nibble) : (15 - k).toNat = 15 - k.toNat :=
  BitVec.toNat_sub_of_le (x := 15) (y := k) (Nat.le_of_lt_succ k.isLt)

/-- Q5: a channel's complement has the complement of its level. -/
theorem quant1_complement (c : Byte) : quant1 (255 - c) = 15 - quant1 c := by
  apply BitVec.eq_of_toNat_eq
  have hc := c.isLt
  rw [quant1_toNat, toNat_complement_byte, toNat_complement_nibble, quant1_toNat]
  omega

theorem quantShift_complement (c : Byte) : quantShift (255 - c) = 15 - quantShift c := by
  apply BitVec.eq_of_toNat_eq
  have hc := c.isLt
  rw [quantShift_toNat, toNat_complement_byte, toNat_complement_nibble, quantShift_toNat]
  omega

/-! ## Round trips (R95, R99) -/

theorem exec_pack_eq_iff (n : Nibbles) (c : Color16) (s : State) :
    exec (.pack n.r4 n.g4 n.b4 n.a4) s = .next { s with packOut := some c } ↔ n = nibblesOf c := by
  rw [exec_pack]
  constructor
  · intro h
    have hc : color16Of n = c := Option.some.inj (congrArg State.packOut (Host.Outcome.next.inj h))
    rw [← hc, nibblesOf_color16Of]
  · rintro rfl
    rw [color16Of_nibblesOf]

/-- PACK8 writes the levels and their packing on the ports of QUANT and PACK (R80, R138). -/
theorem exec_pack8 (r g b a : Byte) (s : State) :
    exec (.pack8 r g b a) s = .next { s with
      quantOut := some (quantColor ⟨r, g, b, a⟩), packOut := some (color16Of (quantColor ⟨r, g, b, a⟩)) } := rfl

/-- A quantiser that inverts the expansion recovers the nibbles of an unpacked colour. -/
theorem color16Of_quantised_unpackColor {q : Byte → Nibble} (h : QuantiserLaws q) (c : Color16) :
    color16Of ⟨q (unpackColor c).r8, q (unpackColor c).g8, q (unpackColor c).b8, q (unpackColor c).a8⟩ = c := by
  simp only [unpackColor, h.leftInverse]
  exact color16Of_nibblesOf c

/-- Expanding the level of a channel gives 17 times the level, which is within 8 of the channel. -/
theorem expand1_quant1_toNat (c : Byte) : (expand1 (quant1 c)).toNat = 17 * (quant1 c).toNat := by
  rw [expand1_toNat, Nat.mul_comm]

theorem expand1_quant1_near (c : Byte) :
    (expand1 (quant1 c)).toNat ≤ c.toNat + 8 ∧ c.toNat ≤ (expand1 (quant1 c)).toNat + 8 := by
  rw [expand1_quant1_toNat]
  exact (quant1_toNat_eq_iff c _).1 rfl

theorem expand1_quant1_eq_iff (c : Byte) : expand1 (quant1 c) = c ↔ 17 ∣ c.toNat := by
  rw [← BitVec.toNat_inj, expand1_quant1_toNat, quant1_toNat]
  omega

end Sys2Proof.Machine

namespace Sys2Proof

open Machine

/-- Settles O7: QUANT writes the four levels, and a level fits its nibble. -/
theorem quantQuantisesEachChannel : Obligations.QuantQuantisesEachChannel := by
  intro r g b a s
  exact ⟨_, exec_quant r g b a s, quant1_toNat r, quant1_toNat g, quant1_toNat b, quant1_toNat a⟩

/-- Settles O8: in each lane the level is the nearest multiple's. -/
theorem quantLevelIsTheNearestMultiple : Obligations.QuantLevelIsTheNearestMultiple := by
  intro x s
  exact ⟨quantColor x, exec_quant _ _ _ _ s, fun k =>
    ⟨quant1_eq_iff x.r8 k, quant1_eq_iff x.g8 k, quant1_eq_iff x.b8 k, quant1_eq_iff x.a8 k⟩⟩

/-- Settles O9: every row of the table is the range within 8 of its centre, cut off at 0 and 255. -/
theorem quantTableOfSixteenBins : Obligations.QuantTableOfSixteenBins := by
  have hrows : ∀ row ∈ ([(0, 8, 0), (9, 25, 1), (26, 42, 2), (43, 59, 3), (60, 76, 4), (77, 93, 5), (94, 110, 6),
      (111, 127, 7), (128, 144, 8), (145, 161, 9), (162, 178, 10), (179, 195, 11), (196, 212, 12), (213, 229, 13),
      (230, 246, 14), (247, 255, 15)] : List (Nat × Nat × Nat)),
      row.1 = 17 * row.2.2 - 8 ∧ row.2.1 = min (17 * row.2.2 + 8) 255 ∧ 17 * row.2.2 ≤ 255 := by decide
  intro row hrow
  obtain ⟨hlo, hhi, hcentre⟩ := hrows row hrow
  refine ⟨fun c s => ⟨quant1 c, exec_quant c c c c s, ?_⟩, by omega, by omega⟩
  have hc := c.isLt
  rw [quant1_toNat_eq_iff]
  omega

/-- Settles O10: the three quantisers as quotients, by 17 with rounding, by 17 and by 16. -/
theorem quantLawsAndRejectedQuantisers : Obligations.QuantLawsAndRejectedQuantisers := by
  refine ⟨quant1_laws, quantFloor_laws, quantShift_laws, fun c => ?_, by decide⟩
  obtain ⟨hlo, hhi⟩ := (quant1_toNat_eq_iff c _).1 rfl
  exact ⟨Nat.le_of_lt_succ (quant1 c).isLt, hlo, hhi, quant1_complement c, quantShift_complement c,
    quant1_laws.leftInverse _, quantFloor_laws.leftInverse _, quantShift_laws.leftInverse _⟩

/-- Settles O12: a colour is the packing of its own nibbles and of no others. -/
theorem packIsABijection : Obligations.PackIsABijection := fun c s n => exec_pack_eq_iff n c s

/-- Settles O16: the level of an expanded level is that level, and an expanded level is within 8 of every channel it
answers. -/
theorem quantRoundTrips : Obligations.QuantRoundTrips := by
  refine ⟨fun c s => ?_, fun x s => ?_⟩
  · refine ⟨unpackColor c, _, exec_unpack c s, exec_pack8 _ _ _ _ s, ?_⟩
    exact congrArg some (color16Of_quantised_unpackColor quant1_laws c)
  · obtain ⟨r, g, b, a⟩ := x
    refine ⟨color16Of (quantColor ⟨r, g, b, a⟩), _, _, exec_pack8 r g b a s, rfl, exec_unpack_color16Of _ _,
      ⟨expand1_quant1_toNat r, expand1_quant1_toNat g, expand1_quant1_toNat b, expand1_quant1_toNat a⟩, ?_,
      expand1_quant1_near r, expand1_quant1_near g, expand1_quant1_near b, expand1_quant1_near a⟩
    simp only [Channels.mk.injEq, quantColor, expand1_quant1_eq_iff]

/-- Settles O17: the round trip uses the left inverse alone. -/
theorem anyLawfulQuantiserRecoversPackedColour : Obligations.AnyLawfulQuantiserRecoversPackedColour := by
  intro q hq c s
  refine ⟨unpackColor c, exec_unpack c s, ?_⟩
  rw [exec_pack, color16Of_quantised_unpackColor hq]

/-- Settles O18: PACK8 is QUANT, then PACK on what QUANT wrote. -/
theorem packEightIsPackOfQuant : Obligations.PackEightIsPackOfQuant := by
  intro r g b a s
  exact ⟨quantColor ⟨r, g, b, a⟩, _, exec_quant r g b a s, rfl, rfl, exec_pack8 r g b a s,
    quant1_toNat r, quant1_toNat g, quant1_toNat b, quant1_toNat a⟩

end Sys2Proof
end

section
/-!
PROOFS. Frames of 41_pixel_update_framer.md: ENCODE by bytes (R121), DECODE by bytes (R69), their round trips (R123) and
the frame messages (R71, R74, R80).
-/
namespace Sys2Proof

/-! ## Frames by bytes (R69, R121) -/

/-- R121: the lanes of a frame, by its fields. -/
theorem laneOf_frameOf_toNat (p : PixelUpdate) :
    (laneOf (frameOf p) 0).toNat = p.opcode.toNat ∧ (laneOf (frameOf p) 1).toNat = p.regionX.toNat / 4 ∧
    (laneOf (frameOf p) 2).toNat = p.regionX.toNat % 4 * 64 + p.regionY.toNat / 16 ∧
    (laneOf (frameOf p) 3).toNat = p.regionY.toNat % 16 * 16 + p.locationX.toNat / 64 ∧
    (laneOf (frameOf p) 4).toNat = p.locationX.toNat % 64 * 4 + p.locationY.toNat / 256 ∧
    (laneOf (frameOf p) 5).toNat = p.locationY.toNat % 256 ∧ (laneOf (frameOf p) 6).toNat = p.color.toNat / 256 ∧
    (laneOf (frameOf p) 7).toNat = p.color.toNat % 256 := by
  have ho := p.opcode.isLt; have hx := p.regionX.isLt; have hy := p.regionY.isLt
  have hu := p.locationX.isLt; have hv := p.locationY.isLt; have hc := p.color.isLt
  refine ⟨?_, ?_, ?_, ?_, ?_, ?_, ?_, ?_⟩ <;> rw [laneOf, toNat_slice, frameOf_toNat] <;> omega

/-- R69: the fields of eight bytes. -/
theorem fieldsOf_eight_bytes (b0 b1 b2 b3 b4 b5 b6 b7 : Byte) :
    let p := fieldsOf (frameOfBytes [b0, b1, b2, b3, b4, b5, b6, b7])
    p.opcode = b0 ∧ p.regionX.toNat = b1.toNat * 4 + b2.toNat / 64 ∧
    p.regionY.toNat = b2.toNat % 64 * 16 + b3.toNat / 16 ∧ p.locationX.toNat = b3.toNat % 16 * 64 + b4.toNat / 4 ∧
    p.locationY.toNat = b4.toNat % 4 * 256 + b5.toNat ∧ p.color = b6 ++ b7 := by
  have h0 := b0.isLt; have h1 := b1.isLt; have h2 := b2.isLt; have h3 := b3.isLt
  have h4 := b4.isLt; have h5 := b5.isLt; have h6 := b6.isLt; have h7 := b7.isLt
  rw [frameOfBytes_eight]
  refine ⟨BitVec.eq_of_toNat_eq ?_, ?_, ?_, ?_, ?_, BitVec.eq_of_toNat_eq ?_⟩ <;>
    simp only [fieldsOf, toNat_slice, toNat_concat] <;> omega

end Sys2Proof

namespace Sys2Proof.Machine

/-- The channels of two colour bytes, each a half of a byte times 17 (R69). -/
theorem unpackColor_two_bytes (b6 b7 : Byte) :
    (unpackColor (b6 ++ b7)).r8.toNat = b6.toNat / 16 * 17 ∧
    (unpackColor (b6 ++ b7)).g8.toNat = b6.toNat % 16 * 17 ∧
    (unpackColor (b6 ++ b7)).b8.toNat = b7.toNat / 16 * 17 ∧
    (unpackColor (b6 ++ b7)).a8.toNat = b7.toNat % 16 * 17 := by
  have h6 := b6.isLt; have h7 := b7.isLt
  refine ⟨?_, ?_, ?_, ?_⟩ <;>
    simp only [unpackColor, nibblesOf, expand1_toNat, toNat_slice, toNat_concat] <;> omega

/-! ## What the operations on frames write -/

/-- ENCODE of a tuple's fields writes the frame of the tuple. -/
theorem exec_encode_fields (p : PixelUpdate) (s : State) :
    exec (.encode p.opcode p.regionX p.regionY p.locationX p.locationY p.color) s =
      .next { s with encodeOut := some (frameOf p) } :=
  exec_encode _ _ _ _ _ _ s

theorem exec_encode_fields_eq_iff (p : PixelUpdate) (f : Frame64) (s : State) :
    exec (.encode p.opcode p.regionX p.regionY p.locationX p.locationY p.color) s =
      .next { s with encodeOut := some f } ↔ p = fieldsOf f := by
  rw [exec_encode_fields]
  constructor
  · intro h
    have hf : frameOf p = f := Option.some.inj (congrArg State.encodeOut (Host.Outcome.next.inj h))
    rw [← hf, fieldsOf_frameOf]
  · rintro rfl
    rw [frameOf_fieldsOf]

theorem exec_setPixel_send (x y u v : Coord) (c : Color16) (s : State) :
    exec (.setPixel .send x y u v c) s = .next { s with encodeOut := some (frameOf ⟨1, x, y, u, v, c⟩) } :=
  congrArg Host.Outcome.next (s.passMessage_send _)

theorem exec_setPixel_receive (x y u v : Coord) (c : Color16) (s : State) :
    exec (.setPixel .receive x y u v c) s =
      .next { s with decodeOut := .update ⟨⟨1, x, y, u, v, c⟩, unpackColor c⟩ } :=
  congrArg Host.Outcome.next (s.passMessage_receive _)

theorem exec_msgUndefined_send (o : Byte) (x y u v : Coord) (c : Color16) (s : State) :
    exec (.msgUndefined .send o x y u v c) s = .next { s with encodeOut := some (frameOf ⟨o, x, y, u, v, c⟩) } :=
  congrArg Host.Outcome.next (s.passMessage_send _)

theorem exec_msgUndefined_receive (o : Byte) (x y u v : Coord) (c : Color16) (s : State) :
    exec (.msgUndefined .receive o x y u v c) s =
      .next { s with decodeOut := .update ⟨⟨o, x, y, u, v, c⟩, unpackColor c⟩ } :=
  congrArg Host.Outcome.next (s.passMessage_receive _)

/-- SET_PIXEL8 writes every stage of the send path on that stage's port (R80, R138). -/
theorem exec_setPixel8 (x y u v : Coord) (r g b a : Byte) (s : State) :
    exec (.setPixel8 x y u v r g b a) s = .next { s with
      quantOut := some (quantColor ⟨r, g, b, a⟩)
      packOut := some (color16Of (quantColor ⟨r, g, b, a⟩))
      encodeOut := some (frameOf ⟨1, x, y, u, v, color16Of (quantColor ⟨r, g, b, a⟩)⟩) } := rfl

end Sys2Proof.Machine

namespace Sys2Proof

open Machine

/-- Settles O21: `en_byte[k]` is lane `k` of the frame. -/
theorem encodeByteFormulas : Obligations.EncodeByteFormulas := by
  intro o x y u v c s
  exact ⟨_, laneOf (frameOf ⟨o, x, y, u, v, c⟩), exec_encode o x y u v c s, fun _ _ => rfl, laneOf_frameOf_toNat _⟩

/-- Settles O23: a frame is the encoding of its own fields and of no others. -/
theorem encodeIsABijection : Obligations.EncodeIsABijection := fun f s =>
  ⟨fieldsOf f, (exec_encode_fields_eq_iff _ f s).2 rfl, fun p => (exec_encode_fields_eq_iff p f s).1⟩

/-- Settles O26: DECODE writes its answer alone, which is FormatError off length 8 and the frame's fields on it. -/
theorem decodeAnswersUpdateOrFormatError : Obligations.DecodeAnswersUpdateOrFormatError := by
  refine ⟨fun bs s hl => ?_, fun b0 b1 b2 b3 b4 b5 b6 b7 f s hf => ⟨decFields f, ?_, decFields_spec f⟩⟩
  · rw [exec_decode, decodeFrame_of_ne bs hl]
  · rw [exec_decode, decodeFrame_of_eight _ rfl, frameOfBytes_eight, hf]

/-- Settles O27: the answer's fields are those of the eight bytes, its channels those of the last two. -/
theorem decodeByteFormulas : Obligations.DecodeByteFormulas := by
  intro b0 b1 b2 b3 b4 b5 b6 b7 s
  obtain ⟨hop, hrx, hry, hlx, hly, hcol⟩ := fieldsOf_eight_bytes b0 b1 b2 b3 b4 b5 b6 b7
  refine ⟨decFields (frameOfBytes [b0, b1, b2, b3, b4, b5, b6, b7]), ?_, hop, hrx, hry, hlx, hly, ?_, ?_⟩
  · rw [exec_decode, decodeFrame_of_eight _ rfl]
  · rw [decFields, hcol, toNat_concat]
    omega
  · rw [decFields, hcol]
    exact unpackColor_two_bytes b6 b7

/-- Settles O30: fields to frame to bytes and back. -/
theorem encodeDecodeRoundTrips : Obligations.EncodeDecodeRoundTrips := by
  have hdec (p : PixelUpdate) (s : State) : ∃ u : Update, u.pixel = p ∧
      exec (.decode (frameBytes (frameOf p))) s = .next { s with decodeOut := .update u } :=
    ⟨decFields (frameOf p), fieldsOf_frameOf p, by rw [exec_decode, decodeFrame_frameBytes]⟩
  refine ⟨fun o x y u v c s => ?_, fun bs s hl => ?_, fun o x y u v c s => ?_⟩
  · obtain ⟨p, hp, hx⟩ := hdec ⟨o, x, y, u, v, c⟩ s
    exact ⟨_, p, exec_encode o x y u v c s, hx, hp⟩
  · obtain ⟨q, rfl⟩ := exists_frame_of_eight hl
    obtain ⟨p, rfl, hx⟩ := hdec q s
    exact ⟨p, _, hx, exec_encode_fields p.pixel s, rfl⟩
  · obtain ⟨p, hp, hx⟩ := hdec ⟨.ofNat 8 o, .ofNat 10 x, .ofNat 10 y, .ofNat 10 u, .ofNat 10 v, .ofNat 16 c⟩ s
    refine ⟨_, _, p, rfl, exec_encode _ _ _ _ _ _ s, hx, ?_⟩
    simp only [hp, BitVec.toNat_ofNat, and_self]

/-- Settles O33: sent, the message is the frame of opcode 1; received, it is answered with its own fields. -/
theorem setPixelPassesTheCore : Obligations.SetPixelPassesTheCore := by
  refine ⟨fun x y u v c s => ⟨_, exec_setPixel_send x y u v c s, ?_⟩, fun x y u v c s =>
    ⟨unpackColor c, exec_setPixel_receive x y u v c s, exec_unpack c s⟩⟩
  simp [frameOf_toNat]

/-- Settles O34: off opcode 1 a frame is MSG_UNDEFINED, which passes as the frame of its fields. -/
theorem undefinedOpcodesPassUnchanged : Obligations.UndefinedOpcodesPassUnchanged := by
  refine ⟨fun dir f ho => ?_, fun o x y u v c s => ?_, fun o x y u v c s => ?_⟩
  · have hmsg := messageOf_frameOf_undefined dir (fieldsOf f) ho
    rw [frameOf_fieldsOf] at hmsg
    rw [decode_frameBytes, hmsg]
    rfl
  · exact ⟨_, exec_msgUndefined_send o x y u v c s, frameOf_toNat _⟩
  · exact ⟨unpackColor c, exec_msgUndefined_receive o x y u v c s, exec_unpack c s⟩

/-- Settles O35: SET_PIXEL8 is PACK8, then ENCODE of the colour PACK8 wrote. -/
theorem setPixelEightChainsTheSendPath : Obligations.SetPixelEightChainsTheSendPath := by
  intro x y u v r g b a s
  refine ⟨_, color16Of (quantColor ⟨r, g, b, a⟩), _, exec_pack8 r g b a s, rfl, rfl,
    exec_setPixel8 x y u v r g b a s, ?_⟩
  simp [frameOf_toNat, color16Of_toNat, quantColor, quant1_toNat, Nat.add_assoc]

/-- Settles O4: the words' fields, slice by slice. -/
theorem specWordsDecodeToTheirOperations : Obligations.SpecWordsDecodeToTheirOperations := by
  unfold Obligations.SpecWordsDecodeToTheirOperations
  decide

end Sys2Proof
end
